-- ==== Sys2Proof/Word.lean ====
section
/-! DEFINITION. The word type. W-bit integers (TICK, DELAY and every timestamp, 10_state.md R20 to R27) are held as numbers
below 2^W: W is a parameter of the instance, so the bound is an invariant (Safety.lean) and not a type (log 8). -/

namespace Sys2Proof

/-- A 32-bit register word (20_memory.md R50, R61). -/
abbrev Word := BitVec 32

end Sys2Proof
end

