-- ==== Sys2Proof/Syntax.lean ====
section
/-! DEFINITION. The ten commands and the two events: one constructor per row of spec/opcode_table.json. -/

namespace Sys2Proof

/-- The rows of the opcode table (30_encoding.md R83 for commands, R88 for events). -/
inductive Instr where
  /-- NOP (40_command_port.md R104). -/
  | nop
  /-- DLYSET: start a delay countdown (41_tick_delay.md R122). -/
  | dlyset
  /-- DIFF: elapsed ticks since a timestamp (42_interval.md R141). -/
  | diff
  /-- ELAPSED: the interval-elapsed comparator (42_interval.md R142). -/
  | elapsed
  /-- GATE g: test and update one interval gate (42_interval.md R143). -/
  | gate (g : BitVec 8)
  /-- GATESET g: set a gate slot's timestamp (42_interval.md R144). -/
  | gateset (g : BitVec 8)
  /-- BREN on: enable or disable the breathing generator (43_breathing.md R161). -/
  | bren (on : Bool)
  /-- BRSTEP: advance the generator if its interval has elapsed (43_breathing.md R162). -/
  | brstep
  /-- BTNPOLL: the debounce test and release handling (44_debounce.md R184). -/
  | btnpoll
  /-- BTNCONF: the debounce confirmation (44_debounce.md R185). -/
  | btnconf
  /-- The TICK event (41_tick_delay.md R120). -/
  | tick
  /-- The LINE(v) event: the button line takes level v (44_debounce.md R181). -/
  | line (v : Bool)
deriving DecidableEq, Repr

end Sys2Proof
end

