-- ==== Sys2Proof/Decode.lean ====
section
/-! DEFINITION. The decoder of command words and event labels, and the encoder (30_encoding.md R80 to R93). -/

namespace Sys2Proof

/-- Why a command word or an event label is no instruction. -/
inductive DecodeError where
  /-- RSV ≠ 0 (R84, R85; error cause 1). -/
  | reservedBits
  /-- OP is not one of R83's (R84, R85; error cause 1). -/
  | unassignedOpcode
  /-- BREN with IDX[7:1] ≠ 0 (R84, R85; error cause 1). -/
  | brenIndex
  /-- IDX ≠ 0 on a command that takes no index (R84, R85; error cause 1). -/
  | nonzeroIndex
  /-- An event label that names no event (R88). -/
  | noSuchEvent
deriving DecidableEq, Repr

/-- What decoding answers. -/
inductive Decoded where
  | instr (i : Instr)
  | illegal (e : DecodeError)
deriving DecidableEq, Repr

/-- What an instruction is written as: a 32-bit command word (R80) or a 3-bit event label (R88). -/
inductive Encoded where
  | command (v : BitVec 32)
  | event (ev : BitVec 3)
deriving DecidableEq, Repr

/-- R80: OP is bits [7:0] of the command word. -/
def opField (v : BitVec 32) : BitVec 8 := v.extractLsb' 0 8

/-- R80: IDX is bits [15:8] of the command word. -/
def idxField (v : BitVec 32) : BitVec 8 := v.extractLsb' 8 8

/-- R80: RSV is bits [31:16] of the command word. -/
def rsvField (v : BitVec 32) : BitVec 16 := v.extractLsb' 16 16

/-- R83: the commands whose IDX must be 0, by opcode. -/
def plainOpcodes : List (BitVec 8 × Instr) :=
  [(0x00#8, .nop), (0x01#8, .dlyset), (0x08#8, .diff), (0x09#8, .elapsed), (0x11#8, .brstep), (0x20#8, .btnpoll),
   (0x21#8, .btnconf)]

/-- The command of `plainOpcodes` with the given opcode. -/
def plainOp (op : BitVec 8) : List (BitVec 8 × Instr) → Option Instr
  | [] => none
  | (o, i) :: rest => if o = op then some i else plainOp op rest

/-- R84 below the RSV check. R84's last check of GATE and GATESET (IDX ≥ NGATES, cause 2) is made by their
meanings, which hold the instance's NGATES (R143, R144 "Errors"; log 10). -/
def decodeOp (op idx : BitVec 8) : Decoded :=
  if op = 0x0A#8 then .instr (.gate idx)
  else if op = 0x0B#8 then .instr (.gateset idx)
  else if op = 0x10#8 then
    if idx.extractLsb' 1 7 ≠ 0#7 then .illegal .brenIndex else .instr (.bren (idx.getLsbD 0))
  else
    match plainOp op plainOpcodes with
    | none => .illegal .unassignedOpcode
    | some i => if idx ≠ 0#8 then .illegal .nonzeroIndex else .instr i

/-- R84: decoding a word written to CMD. -/
def decodeCommand (v : BitVec 32) : Decoded :=
  if rsvField v ≠ 0#16 then .illegal .reservedBits else decodeOp (opField v) (idxField v)

/-- R88: EV[1:0] = 01 is TICK (EV[2] = 0); EV[1:0] = 10 is LINE with EV[2] = v. -/
def decodeEvent (ev : BitVec 3) : Decoded :=
  if ev = 0b001#3 then .instr .tick
  else if ev.extractLsb' 0 2 = 0b10#2 then .instr (.line (ev.getLsbD 2))
  else .illegal .noSuchEvent

/-- The decoder: total on every command word and every event label. -/
def decode : Encoded → Decoded
  | .command v => decodeCommand v
  | .event ev => decodeEvent ev

/-- R89: a command's word is {16'b0, IDX[7:0], OP[7:0]}. -/
def commandWord (op idx : BitVec 8) : BitVec 32 := 0#16 ++ idx ++ op

/-- The encoder, from R83 (commands) and R88 (events). -/
def encode : Instr → Encoded
  | .nop => .command (commandWord 0x00 0)
  | .dlyset => .command (commandWord 0x01 0)
  | .diff => .command (commandWord 0x08 0)
  | .elapsed => .command (commandWord 0x09 0)
  | .gate g => .command (commandWord 0x0A g)
  | .gateset g => .command (commandWord 0x0B g)
  | .bren on => .command (commandWord 0x10 (0#7 ++ BitVec.ofBool on))
  | .brstep => .command (commandWord 0x11 0)
  | .btnpoll => .command (commandWord 0x20 0)
  | .btnconf => .command (commandWord 0x21 0)
  | .tick => .event 0b001#3
  | .line v => .event (BitVec.ofBool v ++ 0b10#2)

/-- What a row of spec/opcode_table.json with `nbits` bits and the bits `w` stands for: a row of at most 8 bits is a 3-bit
event label, any other a 32-bit command word (log 21). None where a bit above the label or the word is set. -/
def tableEncoded (nbits w : Nat) : Option Encoded :=
  if nbits ≤ 8 then
    if w < 8 then some (.event (BitVec.ofNat 3 w)) else none
  else if w < 2 ^ 32 then some (.command (BitVec.ofNat 32 w)) else none

/-- The instruction the decoder reads from a row of the opcode table whose bits are `w`. -/
def decodeTableWord (nbits w : Nat) : Option Instr :=
  match tableEncoded nbits w with
  | none => none
  | some e =>
    match decode e with
    | .instr i => some i
    | .illegal _ => none

end Sys2Proof
end

