-- ==== Sys2Proof/Config.lean ====
section
/-! DEFINITION. The implementation parameters of 00_scope.md R6, and the reference instance. -/

namespace Sys2Proof

/-- NSEL: "exactly 3" (R6). -/
abbrev nSel : Nat := 3

/-- The parameters of one instance of the block, "fixed for the life of a model instance; no register changes them" (R6). -/
structure Config where
  /-- W: width in bits of TICK, DELAY and every timestamp. -/
  w : Nat
  /-- NGATES: number of interval-gate slots. -/
  nGates : Nat
  /-- STEPS: breathing steps per half-cycle. -/
  steps : Nat
  /-- PERIOD: full-scale duty value. -/
  period : Nat
  /-- BREATH_INTERVAL: ticks between breathing steps. -/
  breathInterval : Nat
  /-- DEBOUNCE_WINDOW: the retrigger guard's window in ticks. -/
  debounceWindow : Nat
  /-- SEL_RESET: the selector after reset. -/
  selReset : Nat
  /-- BASE: host address of the register window. -/
  base : Nat
  /-- F_TICK in hertz, "timing only; no rule depends on it" (log 23). -/
  fTick : Nat
deriving DecidableEq, Repr

/-- The legal range of every parameter (R6; BASE a multiple of 0x80 by 20_memory.md R50). -/
abbrev Config.Legal (c : Config) : Prop :=
  (1 ≤ c.w ∧ c.w ≤ 32) ∧ (1 ≤ c.nGates ∧ c.nGates ≤ 16) ∧ (1 ≤ c.steps ∧ c.steps ≤ 65535) ∧
  (1 ≤ c.period ∧ c.period ≤ 4294967295) ∧ c.breathInterval ≤ 2 ^ c.w - 1 ∧
  c.debounceWindow ≤ 2 ^ c.w - 1 ∧ c.selReset ≤ 2 ∧ c.base % 0x80 = 0 ∧ 0 < c.fTick

/-- FREE VALUE. The spec gives PERIOD no value (R6 "OPEN (no source value)"), only the range 1 .. 2^32 − 1.
The reference instance's PERIOD is this constant, which has no body, plus 1 (log 2). -/
opaque Config.openPeriod : Fin 4294967295

/-- The instance with R6's default and reference values.
DESIGN CHOICE: BASE, which the spec leaves OPEN, is 0x80 here (log 3); PERIOD is the free value (log 2). -/
def Config.reference : Config where
  w := 32
  nGates := 4
  steps := 50
  period := Config.openPeriod.val + 1
  breathInterval := 10
  debounceWindow := 200
  selReset := 1
  base := 0x80
  fTick := 1000

end Sys2Proof
end

