-- ==== Sys2Proof/Machine/State.lean ====
section
/-! DEFINITION. The state of the block (10_state.md), what the outside does to it, the reasons a step stops, and reset. -/

namespace Sys2Proof.Machine

/-- DIR (10_state.md R22): 0 = rising, 1 = falling. -/
inductive Direction where
  | rising
  | falling
deriving DecidableEq, Repr

/-- One thing the outside does to the block: a step of one agent (60_exceptions.md R216) or the reset step
(70_reset_and_hazards.md R241). -/
inductive Input where
  /-- The `rst` port, with `timer_cfg_ok` as sampled in that step (R241, R242). -/
  | reset (timerCfgOk : Bool)
  /-- A step of the tick source or of the button line, by its label (30_encoding.md R88). -/
  | event (ev : BitVec 3)
  /-- MemRead(addr, size): a host read of `size` bytes (20_memory.md R52). -/
  | read (addr size : Nat)
  /-- MemWrite(addr, size, data): a host write of `size` bytes (20_memory.md R52). Only a 4-byte write can be legal, so 32
  bits of data are enough (log 16). -/
  | write (addr size : Nat) (data : Word)
deriving DecidableEq, Repr

/-- The reasons a step ends in a fault: none. The block raises no trap (60_exceptions.md R210); its errors are the state
ERR and ECAUSE, and the machine goes on (R213). -/
inductive Fault where
deriving DecidableEq, Repr

/-- The reasons a step is refused. -/
inductive Refusal where
  /-- Raised by `exec` for an instruction that has no meaning yet; safe. No arm raises it now. -/
  | notModelled (mnemonic : String)
  /-- Raised by `step` when the next input is an event label that names no event (000, 011, 100, 101, 111); safe:
  "A model's step relation has no step for them" (93_implementation_defined.md V8, 30_encoding.md R88). -/
  | noSuchEvent (ev : BitVec 3)
deriving DecidableEq, Repr

/-- The state: the block's registers (10_state.md R20 to R30), the instance's parameters, and what the outside does next. -/
structure State where
  /-- The parameters of this instance; no step changes them (R6, R31; log 1). -/
  cfg : Config
  /-- The model's own: what the agents do next, oldest first (R216; log 5). -/
  inputs : List Input
  /-- The model's own: the value the last host read returned (R53; log 7). -/
  readData : Word
  /-- TICK (R20). -/
  tick : Nat
  /-- DELAY (R21). -/
  delay : Nat
  /-- EN (R22). -/
  en : Bool
  /-- DIR (R22). -/
  dir : Direction
  /-- STEP (R22), "held in 16 bits". -/
  stepIdx : BitVec 16
  /-- DUTY (R22), "held in 32 bits". -/
  duty : Word
  /-- BR_LAST (R22). -/
  brLast : Nat
  /-- PENDING (R23). -/
  pending : Bool
  /-- CONFIRMED (R23). -/
  confirmed : Bool
  /-- BTN_LAST (R24). -/
  btnLast : Nat
  /-- LEVEL (R25): true = 1 = released, false = 0 = asserted. -/
  level : Bool
  /-- SEL (R26), "held in 2 bits". -/
  sel : BitVec 2
  /-- GATE_LAST[0], …, GATE_LAST[NGATES − 1] (R27; log 9). -/
  gateLast : List Nat
  /-- ARGA (R28). -/
  arga : Word
  /-- ARGB (R28). -/
  argb : Word
  /-- RESULT (R28). -/
  result : Word
  /-- ERR (R29). -/
  err : Bool
  /-- ECAUSE (R29). -/
  ecause : BitVec 4
  /-- HALTED (R30). -/
  halted : Bool
deriving DecidableEq, Repr

/-- The block of the instance `c` right after reset with `timer_cfg_ok` as given (70_reset_and_hazards.md R240, R242). -/
def State.resetOf (c : Config) (timerCfgOk : Bool) : State where
  cfg := c
  inputs := []
  readData := 0
  tick := 0
  delay := 0
  en := false
  dir := .rising
  stepIdx := 0
  duty := 0
  brLast := 0
  pending := false
  confirmed := false
  btnLast := 0
  level := true
  sel := BitVec.ofNat 2 c.selReset
  gateLast := List.replicate c.nGates 0
  arga := 0
  argb := 0
  result := 0
  err := false
  ecause := 0
  halted := !timerCfgOk

/-- The machine right after reset: R240's values, for the reference instance with `timer_cfg_ok` = 1 (log 4). -/
def State.reset : State := State.resetOf Config.reference true

end Sys2Proof.Machine
end

