-- ==== Sys2Proof/Machine/Ops.lean ====
section
/-! DEFINITION. The shared operations: W-bit arithmetic, gate slots, RESULT, the error effect, the halt rule, reset. -/

namespace Sys2Proof.Machine

/-- v reduced to W bits (00_scope.md R8). -/
def modW (w v : Nat) : Nat := v % 2 ^ w

/-- `a -W b` = (a − b) mod 2^W, "computed on mathematical integers then reduced" (R8). -/
def subW (w : Nat) (a b : Nat) : Nat := (((a : Int) - (b : Int)) % ((2 ^ w : Nat) : Int)).toNat

/-- A W-bit value zero-extended to a 32-bit word (R8; 20_memory.md R56). -/
def zextW (w : Nat) (v : Nat) : Word := BitVec.ofNat 32 (modW w v)

/-- elapsed(ts) = TICK -W ts, TICK read in the same step (42_interval.md R140). -/
def elapsedSince (s : State) (ts : Nat) : Nat := subW s.cfg.w s.tick ts

/-- GATE_LAST[g] (10_state.md R27). -/
def readGate (s : State) (g : Nat) : Nat := s.gateLast.getD g 0

/-- GATE_LAST[g] <- v; no other slot changes (R27, 42_interval.md R143). -/
def setGate (g : Nat) (v : Nat) (s : State) : State := { s with gateLast := s.gateLast.set g v }

/-- RESULT <- v (R28). -/
def setResult (v : Word) (s : State) : State := { s with result := v }

/-- The error causes of 60_exceptions.md R211. -/
inductive ErrCause where
  /-- ILLEGAL_CMD, code 1. -/
  | illegalCmd
  /-- BAD_INDEX, code 2. -/
  | badIndex
  /-- BAD_ACCESS, code 3. -/
  | badAccess
deriving DecidableEq, Repr

/-- The ECAUSE value of a cause (R211). -/
def causeCode : ErrCause → BitVec 4
  | .illegalCmd => 1
  | .badIndex => 2
  | .badAccess => 3

/-- `raise ERR(c)`: ERR <- 1, and ECAUSE <- c if it was 0; nothing else changes (60_exceptions.md R212, R213). -/
def raiseErr (c : ErrCause) (s : State) : State :=
  { s with err := true, ecause := if s.ecause = 0 then causeCode c else s.ecause }

/-- While HALTED = 1 a command or an event changes nothing; otherwise it ends in the state `t` (60_exceptions.md R214,
40_command_port.md R101, 41_tick_delay.md R120, 44_debounce.md R181). -/
def whenRunning (s t : State) : Host.Outcome State Fault Refusal := .next (if s.halted then s else t)

/-- The host read returns v (20_memory.md R53). -/
def answerRead (v : Word) (s : State) : State := { s with readData := v }

/-- The reset step: every element at its R240 value at once, whatever the state before (70_reset_and_hazards.md R241,
R242). What the outside does next and what the host has already read are not the block's (log 15). -/
def takeReset (timerCfgOk : Bool) (s : State) : State :=
  { State.resetOf s.cfg timerCfgOk with inputs := s.inputs, readData := s.readData }

end Sys2Proof.Machine
end

