-- ==== Sys2Proof/Machine/Flags.lean ====
section
/-! DEFINITION. The status flags, the composite status words, the output ports and the result codes. -/

namespace Sys2Proof.Machine

/-- DLYBUSY = (DELAY ≠ 0), held by no storage of its own (10_state.md R33, 41_tick_delay.md R125). -/
def dlyBusy (s : State) : Bool := decide (s.delay ≠ 0)

/-- DIR as a bit: 0 rising, 1 falling (10_state.md R22). -/
def dirBit : Direction → Bool
  | .rising => false
  | .falling => true

/-- STATUS: ECAUSE at [11:8], HALT at [2], DLYBUSY at [1], ERR at [0] (20_memory.md R55). -/
def statusWord (s : State) : Word :=
  0#20 ++ s.ecause ++ 0#5 ++ BitVec.ofBool s.halted ++ BitVec.ofBool (dlyBusy s) ++ BitVec.ofBool s.err

/-- BRSTAT = {STEP[15:0], 14'b0, DIR, EN} (20_memory.md R55). -/
def brstatWord (s : State) : Word :=
  s.stepIdx ++ 0#14 ++ BitVec.ofBool (dirBit s.dir) ++ BitVec.ofBool s.en

/-- BTNSTAT = zext_32({SEL[1:0], 1'b0, LEVEL, CONFIRMED, PENDING}) (20_memory.md R55). -/
def btnstatWord (s : State) : Word :=
  0#26 ++ s.sel ++ 0#1 ++ BitVec.ofBool s.level ++ BitVec.ofBool s.confirmed ++ BitVec.ofBool s.pending

/-- The port duty_out[31:0] = DUTY at all times (43_breathing.md R165). -/
def dutyOut (s : State) : Word := s.duty

/-- The port sel_out[1:0] = SEL (10_state.md R37, 44_debounce.md R186). -/
def selOut (s : State) : BitVec 2 := s.sel

/-- A yes-or-no RESULT: 1 or 0 (40_command_port.md R102: ELAPSED, GATE, BRSTEP). -/
def resultFlag (b : Bool) : Word := if b then 1 else 0

/-- BTNPOLL's results (40_command_port.md R102). -/
inductive PollResult where
  | idle
  | settle
  | released
  | held
deriving DecidableEq, Repr

/-- "0 IDLE, 1 SETTLE, 2 RELEASED, 3 HELD" (R102). -/
def pollCode : PollResult → Word
  | .idle => 0
  | .settle => 1
  | .released => 2
  | .held => 3

/-- BTNCONF's results (40_command_port.md R102). -/
inductive ConfResult where
  | noise
  | confirmed
  | none
deriving DecidableEq, Repr

/-- "0 NOISE, 1 CONFIRMED, 2 NONE" (R102). -/
def confCode : ConfResult → Word
  | .noise => 0
  | .confirmed => 1
  | .none => 2

end Sys2Proof.Machine
end

