-- ==== Sys2Proof/Machine/Operands.lean ====
section
/-! DEFINITION. The operand forms of a command: tick-valued, interval, and gate index (30_encoding.md R81, R82). -/

namespace Sys2Proof.Machine

/-- A tick-valued operand: `ARGx mod 2^W`, the low W bits (R82). -/
def tickOperand (c : Config) (arg : Word) : Nat := modW c.w arg.toNat

/-- An interval operand: the full 32-bit unsigned ARGx, so an interval ≥ 2^W is never reached (R82). -/
def intervalOperand (arg : Word) : Nat := arg.toNat

/-- The gate index g = zext(IDX) (R81). -/
def gateIndex (idx : BitVec 8) : Nat := idx.toNat

/-- R81, R84: the gate index names a slot. -/
def gateExists (c : Config) (idx : BitVec 8) : Bool := decide (gateIndex idx < c.nGates)

end Sys2Proof.Machine
end

