-- ==== Sys2Proof/Machine/Bus.lean ====
section
/-! DEFINITION. The register window (20_memory.md): the map, which accesses are legal, what a read returns, what a write
does, and how the next input is taken. -/

namespace Sys2Proof.Machine

/-- The registers of the map (20_memory.md R51). -/
inductive Reg where
  | tick
  | delay
  | cmd
  | arga
  | argb
  | result
  | status
  | brstat
  | duty
  | brlast
  | btnstat
  | btnlast
  | gatelast (g : Nat)
deriving DecidableEq, Repr

/-- The register at an offset that is a multiple of 4 below 0x80; none at the reserved offsets 0x30–0x3C and
0x40 + 4·NGATES–0x7C (20_memory.md R51, R71). -/
def regAt (c : Config) (off : Nat) : Option Reg :=
  match off with
  | 0x00 => some .tick
  | 0x04 => some .delay
  | 0x08 => some .cmd
  | 0x0C => some .arga
  | 0x10 => some .argb
  | 0x14 => some .result
  | 0x18 => some .status
  | 0x1C => some .brstat
  | 0x20 => some .duty
  | 0x24 => some .brlast
  | 0x28 => some .btnstat
  | 0x2C => some .btnlast
  | off => if 0x40 ≤ off ∧ off < 0x40 + 4 * c.nGates then some (.gatelast ((off - 0x40) / 4)) else none

/-- The register a host access of `size` bytes at `addr` names: the offset is in the window, a multiple of 4, and the size
is 4 (20_memory.md R52, R62). -/
def windowReg (c : Config) (addr size : Nat) : Option Reg :=
  if c.base ≤ addr ∧ addr - c.base < 0x80 ∧ (addr - c.base) % 4 = 0 ∧ size = 4 then regAt c (addr - c.base) else none

/-- What the register map assembles for a legal read (20_memory.md R51, R53 to R56); none for the write-only CMD. -/
def regValue (s : State) : Reg → Option Word
  | .tick => some (zextW s.cfg.w s.tick)
  | .delay => some (zextW s.cfg.w s.delay)
  | .cmd => none
  | .arga => some s.arga
  | .argb => some s.argb
  | .result => some s.result
  | .status => some (statusWord s)
  | .brstat => some (brstatWord s)
  | .duty => some s.duty
  | .brlast => some (zextW s.cfg.w s.brLast)
  | .btnstat => some (btnstatWord s)
  | .btnlast => some (zextW s.cfg.w s.btnLast)
  | .gatelast g => some (zextW s.cfg.w (readGate s g))

/-- The value a read at `addr` returns, if the read is legal (20_memory.md R52, R53). -/
def legalRead (s : State) (addr size : Nat) : Option Word := (windowReg s.cfg addr size).bind (regValue s)

/-- An illegal access raises ERR(3), but nothing while HALTED = 1 (20_memory.md R52, R60). -/
def badAccess (s : State) : State := if s.halted then s else raiseErr .badAccess s

/-- A host read: a legal one returns the register and changes no state; an illegal one returns 0 (20_memory.md R52, R53,
R60). -/
def hostRead (addr size : Nat) (s : State) : State :=
  match legalRead s addr size with
  | some v => answerRead v s
  | none => answerRead 0 (badAccess s)

/-- What taking one input comes to: it is done, an instruction is to run, or the label names no event. -/
inductive Taken where
  | done (s : State)
  | run (i : Instr) (s : State)
  | noEvent (ev : BitVec 3)
deriving DecidableEq, Repr

/-- A write of v to CMD: a decoded command is to run, any other word raises ERR(1) (20_memory.md R58, 30_encoding.md R84,
R85). -/
def writeCmd (v : Word) (s : State) : Taken :=
  match decodeCommand v with
  | .instr i => .run i s
  | .illegal _ => .done (raiseErr .illegalCmd s)

/-- A host write: nothing while HALTED = 1; else only ARGA, ARGB and CMD may be written (20_memory.md R52, R57 to R60). -/
def hostWrite (addr size : Nat) (v : Word) (s : State) : Taken :=
  if s.halted then .done s
  else
    match windowReg s.cfg addr size with
    | some .arga => .done { s with arga := v }
    | some .argb => .done { s with argb := v }
    | some .cmd => writeCmd v s
    | _ => .done (badAccess s)

/-- One input, by the agent it comes from (60_exceptions.md R216; 70_reset_and_hazards.md R241). -/
def takeOne (inp : Input) (s : State) : Taken :=
  match inp with
  | .reset timerCfgOk => .done (takeReset timerCfgOk s)
  | .event ev =>
    match decodeEvent ev with
    | .instr i => .run i s
    | .illegal _ => .noEvent ev
  | .read addr size => .done (hostRead addr size s)
  | .write addr size v => hostWrite addr size v s

/-- The next input is taken off the list; with none, the block waits (70_reset_and_hazards.md R240; log 6). -/
def takeInput (s : State) : Taken :=
  match s.inputs with
  | [] => .done s
  | inp :: rest => takeOne inp { s with inputs := rest }

/-- The input that presents a row of the opcode table to the block: the event itself, or the host's write of the command
word to CMD. -/
def wordInput (c : Config) (nbits w : Nat) : Option Input :=
  match tableEncoded nbits w with
  | none => none
  | some (.command v) => some (.write (c.base + 0x08) 4 v)
  | some (.event ev) => some (.event ev)

/-- The state in which that input is the next one (log 14). -/
def presentWord (s : State) (nbits w : Nat) : State :=
  match wordInput s.cfg nbits w with
  | none => s
  | some inp => { s with inputs := inp :: s.inputs }

end Sys2Proof.Machine
end

