-- ==== Sys2Proof/Machine/Breathing.lean ====
section
/-! DEFINITION. The breathing waveform generator (43_breathing.md). -/

namespace Sys2Proof.Machine

/-- duty(s) = min((s × PERIOD) div STEPS, PERIOD), the product exact, the division truncating (43_breathing.md R160). -/
def dutyOf (c : Config) (k : Nat) : Nat := min (k * c.period / c.steps) c.period

/-- The value duty(k) as DUTY holds it, in 32 bits (10_state.md R22). -/
def dutyWord (c : Config) (k : Nat) : Word := BitVec.ofNat 32 (dutyOf c k)

/-- STEP, DIR and DUTY at the bottom of the waveform, EN as given (43_breathing.md R161). -/
def restartWave (on : Bool) (s : State) : State := { s with en := on, stepIdx := 0, dir := .rising, duty := 0 }

/-- BREN on: on = 1 restarts the waveform unless it is already enabled; on = 0 always stops it. BR_LAST is not written
(43_breathing.md R161). -/
def execBren (on : Bool) (s : State) : Host.Outcome State Fault Refusal :=
  whenRunning s (if on && s.en then s else restartWave on s)

/-- The rising transition: DUTY from STEP before the increment; at STEPS clamp and flip (43_breathing.md R162). -/
def riseStep (s : State) : State :=
  { s with
    duty := dutyWord s.cfg s.stepIdx.toNat
    stepIdx := BitVec.ofNat 16 (min (s.stepIdx.toNat + 1) s.cfg.steps)
    dir := if s.cfg.steps ≤ s.stepIdx.toNat + 1 then .falling else s.dir }

/-- The falling transition: STEP decrements, saturating at 0; DUTY from STEP after; at 0 flip (43_breathing.md R162). -/
def fallStep (s : State) : State :=
  { s with
    stepIdx := BitVec.ofNat 16 (s.stepIdx.toNat - 1)
    duty := dutyWord s.cfg (s.stepIdx.toNat - 1)
    dir := if s.stepIdx.toNat - 1 = 0 then .rising else s.dir }

/-- The transition of a due BRSTEP (43_breathing.md R162). -/
def waveStep (s : State) : State :=
  if s.en then
    match s.dir with
    | .rising => riseStep s
    | .falling => fallStep s
  else { s with duty := 0 }

/-- BRSTEP's own gate: elapsed(BR_LAST) ≥ BREATH_INTERVAL (43_breathing.md R162). -/
def brDue (s : State) : Bool := decide (s.cfg.breathInterval ≤ elapsedSince s s.brLast)

/-- BRSTEP: when due, BR_LAST <- TICK, RESULT <- 1 and the transition, also while disabled; else RESULT <- 0
(43_breathing.md R162). -/
def execBrstep (s : State) : Host.Outcome State Fault Refusal :=
  whenRunning s
    (if brDue s then waveStep { s with brLast := s.tick, result := resultFlag true }
     else setResult (resultFlag false) s)

end Sys2Proof.Machine
end

