-- ==== Sys2Proof/Machine/Command.lean ====
section
/-! DEFINITION. The NOP command (40_command_port.md). -/

namespace Sys2Proof.Machine

/-- NOP: no operation; RESULT unchanged (40_command_port.md R104). -/
def execNop (s : State) : Host.Outcome State Fault Refusal := whenRunning s s

end Sys2Proof.Machine
end

