-- ==== Sys2Proof/Machine/Debounce.lean ====
section
/-! DEFINITION. The debounced edge detector and the threshold selector (44_debounce.md). -/

namespace Sys2Proof.Machine

/-- The retrigger guard: elapsed(BTN_LAST) > DEBOUNCE_WINDOW, strictly (44_debounce.md R182). -/
def edgeAccepted (s : State) : Bool := decide (s.cfg.debounceWindow < elapsedSince s s.btnLast)

/-- The falling-edge handler: an accepted edge sets PENDING and records TICK; an ignored one changes nothing
(44_debounce.md R182). -/
def fallingEdge (s : State) : State :=
  if edgeAccepted s then { s with pending := true, btnLast := s.tick } else s

/-- LINE v: LEVEL <- v, and a change 1 → 0 runs the edge handler in the same step (44_debounce.md R181). -/
def execLine (v : Bool) (s : State) : Host.Outcome State Fault Refusal :=
  whenRunning s
    (if s.level && !v then fallingEdge { s with level := v } else { s with level := v })

/-- BTNPOLL: the debounce test and the release handling (44_debounce.md R184). -/
def execBtnpoll (s : State) : Host.Outcome State Fault Refusal :=
  whenRunning s
    (if s.confirmed then
      if s.level then
        setResult (pollCode .released) { s with pending := false, confirmed := false }
      else setResult (pollCode .held) s
    else if s.pending then setResult (pollCode .settle) s
    else setResult (pollCode .idle) s)

/-- (SEL + 1) mod 3 in 2 bits (44_debounce.md R185, R186). -/
def nextSel (sel : BitVec 2) : BitVec 2 := BitVec.ofNat 2 ((sel.toNat + 1) % nSel)

/-- BTNCONF: the confirmation after the settle delay (44_debounce.md R185). -/
def execBtnconf (s : State) : Host.Outcome State Fault Refusal :=
  whenRunning s
    (if s.pending && !s.confirmed then
      if s.level then setResult (confCode .noise) { s with pending := false }
      else setResult (confCode .confirmed) { s with sel := nextSel s.sel, confirmed := true }
    else setResult (confCode .none) s)

end Sys2Proof.Machine
end

