-- ==== Sys2Proof/Machine/Interval.lean ====
section
/-! DEFINITION. The interval-elapsed comparator and the interval gates (42_interval.md). -/

namespace Sys2Proof.Machine

/-- DIFF: RESULT <- zext_32((TICK − ts) mod 2^W) with ts = ARGA mod 2^W (42_interval.md R141). -/
def execDiff (s : State) : Host.Outcome State Fault Refusal :=
  whenRunning s (setResult (zextW s.cfg.w (elapsedSince s (tickOperand s.cfg s.arga))) s)

/-- ELAPSED: RESULT <- 1 iff elapsed(ts) ≥ delta, ts from ARGA and delta the whole ARGB (42_interval.md R142, R146). -/
def execElapsed (s : State) : Host.Outcome State Fault Refusal :=
  whenRunning s
    (setResult (resultFlag (decide (intervalOperand s.argb ≤ elapsedSince s (tickOperand s.cfg s.arga)))) s)

/-- GATE g with g a slot: fires iff elapsed(GATE_LAST[g]) ≥ thr, and then records the TICK it compared
(42_interval.md R143, 40_command_port.md R106). -/
def pollGate (g : Nat) (s : State) : State :=
  if intervalOperand s.arga ≤ elapsedSince s (readGate s g) then
    setResult (resultFlag true) (setGate g s.tick s)
  else setResult (resultFlag false) s

/-- GATE g: cause 2 if g ≥ NGATES, else the test and update of the slot (42_interval.md R143). -/
def execGate (g : BitVec 8) (s : State) : Host.Outcome State Fault Refusal :=
  whenRunning s (if gateExists s.cfg g then pollGate (gateIndex g) s else raiseErr .badIndex s)

/-- GATESET g: cause 2 if g ≥ NGATES, else GATE_LAST[g] <- ARGA mod 2^W; RESULT unchanged (42_interval.md R144). -/
def execGateset (g : BitVec 8) (s : State) : Host.Outcome State Fault Refusal :=
  whenRunning s
    (if gateExists s.cfg g then setGate (gateIndex g) (tickOperand s.cfg s.arga) s else raiseErr .badIndex s)

end Sys2Proof.Machine
end

