-- ==== Sys2Proof/Machine/TickDelay.lean ====
section
/-! DEFINITION. The TICK event and the delay countdown (41_tick_delay.md). -/

namespace Sys2Proof.Machine

/-- The TICK event: TICK + 1 modulo 2^W and, in the same step, DELAY − 1 while DELAY ≠ 0 (41_tick_delay.md R120). -/
def execTick (s : State) : Host.Outcome State Fault Refusal :=
  whenRunning s { s with
    tick := modW s.cfg.w (s.tick + 1)
    delay := if s.delay ≠ 0 then s.delay - 1 else s.delay }

/-- DLYSET: DELAY <- ARGA mod 2^W, over whatever budget was outstanding (41_tick_delay.md R122, R126). -/
def execDlyset (s : State) : Host.Outcome State Fault Refusal :=
  whenRunning s { s with delay := tickOperand s.cfg s.arga }

end Sys2Proof.Machine
end

