-- ==== Sys2Proof/Machine/Dispatch.lean ====
section
/-! DEFINITION. The meaning of every instruction, one arm per constructor. -/

namespace Sys2Proof.Machine

/-- One command (40_command_port.md R100) or one event (60_exceptions.md R216), in one atomic step. -/
def exec (i : Instr) (s : State) : Host.Outcome State Fault Refusal :=
  match i with
  | .nop => Sys2Proof.Machine.execNop s
  | .dlyset => Sys2Proof.Machine.execDlyset s
  | .diff => Sys2Proof.Machine.execDiff s
  | .elapsed => Sys2Proof.Machine.execElapsed s
  | .gate g => Sys2Proof.Machine.execGate g s
  | .gateset g => Sys2Proof.Machine.execGateset g s
  | .bren on => Sys2Proof.Machine.execBren on s
  | .brstep => Sys2Proof.Machine.execBrstep s
  | .btnpoll => Sys2Proof.Machine.execBtnpoll s
  | .btnconf => Sys2Proof.Machine.execBtnconf s
  | .tick => Sys2Proof.Machine.execTick s
  | .line v => Sys2Proof.Machine.execLine v s

end Sys2Proof.Machine
end

