-- ==== Sys2Proof/Machine/Step.lean ====
section
/-! DEFINITION. One step of the machine: the next input of `State.inputs`, taken as one atomic step. -/

namespace Sys2Proof.Machine

/-- One atomic step (60_exceptions.md R216). -/
def step (s : State) : Host.Outcome State Fault Refusal :=
  match takeInput s with
  | .done t => .next t
  | .run i t => exec i t
  | .noEvent ev => .refused (.noSuchEvent ev)

/-- s with the instruction whose opcode-table bits are `w` as the next input: `step` takes and runs exactly it. The block
fetches nothing (10_state.md R32): a command arrives as a host write to CMD and an event at its port (log 14). -/
def State.withFetchWord (s : State) (nbits w : Nat) : State := presentWord s nbits w

end Sys2Proof.Machine
end

