-- ==== Sys2Proof/Machine/Environment.lean ====
section
/-! DEFINITION. What the outside does, in the spec's notation (30_encoding.md R88, R90), and runs of the block over it. -/

namespace Sys2Proof.Machine

/-- `@tick`: one TICK event (R88, R90). -/
abbrev tickInput : Input := .event 0b001#3

/-- `@line v`: one LINE(v) event, EV = {v, 10} (R88, R90). -/
def lineInput (v : Bool) : Input := .event (BitVec.ofBool v ++ 0b10#2)

/-- `wr off, v` is `MemWrite(BASE + off, 4, v)` (R90). -/
def wrInput (c : Config) (off : Nat) (v : Word) : Input := .write (c.base + off) 4 v

/-- `rd off` is `MemRead(BASE + off, 4)` (R90). -/
def rdInput (c : Config) (off : Nat) : Input := .read (c.base + off) 4

/-- `wr 0x08, v`: the host writes the command word v to CMD (R90). -/
def cmdInput (c : Config) (v : Word) : Input := wrInput c 0x08 v

/-- The word `cmd MNEMONIC [n]` writes (R89); 0, the word of NOP, for an event, which no host writes. -/
def wordOf (i : Instr) : Word :=
  match encode i with
  | .command v => v
  | .event _ => 0

/-- One step in which the block takes `inp`, put in front of whatever else the outside does. -/
def stepOn (inp : Input) (s : State) : Host.Outcome State Fault Refusal := step { s with inputs := inp :: s.inputs }

/-- The block takes the inputs one after another, stopping at a refused one. Every interleaving of the agents' steps is
one such list (60_exceptions.md R216, R217). -/
def runOn : List Input → State → Host.Outcome State Fault Refusal
  | [], s => .next s
  | inp :: rest, s =>
    match stepOn inp s with
    | .next t => runOn rest t
    | .fault r => .fault r
    | .refused r => .refused r

end Sys2Proof.Machine
end

