-- ==== Sys2Proof/Safety.lean ====
section
/-! DEFINITION. The terms the statements use: which inputs and accesses are meant, safe runs, and the invariant. -/

namespace Sys2Proof.Machine

/-- The number of TICK events in a list of inputs. -/
def tickCount (ins : List Input) : Nat := ins.countP (· == tickInput)

/-- An event label that names an event: 001, 010 and 110 (30_encoding.md R88). -/
def namesEvent (ev : BitVec 3) : Bool := ev == 0b001#3 || ev == 0b010#3 || ev == 0b110#3

/-- An input the step relation has a step for: anything but an event label that names no event
(93_implementation_defined.md V8). -/
def Input.possible : Input → Bool
  | .event ev => namesEvent ev
  | .reset _ => true
  | .read _ _ => true
  | .write _ _ _ => true

/-- A possible input that is not a reset: a step of one of the three agents (60_exceptions.md R216). -/
def Input.agentStep : Input → Bool
  | .event ev => namesEvent ev
  | .reset _ => false
  | .read _ _ => true
  | .write _ _ _ => true

/-- `addr` and `size` name a register the host may read (20_memory.md R51, R52). -/
def ReadLegal (c : Config) (addr size : Nat) : Prop :=
  size = 4 ∧ ∃ off, addr = c.base + off ∧
    (off ∈ [0x00, 0x04, 0x0C, 0x10, 0x14, 0x18, 0x1C, 0x20, 0x24, 0x28, 0x2C] ∨ ∃ g < c.nGates, off = 0x40 + 4 * g)

/-- `addr` and `size` name a register the host may write: CMD, ARGA or ARGB (20_memory.md R51, R52). -/
def WriteLegal (c : Config) (addr size : Nat) : Prop :=
  size = 4 ∧ ∃ off, addr = c.base + off ∧ off ∈ [0x08, 0x0C, 0x10]

/-- The effect of an error of cause c as 60_exceptions.md R212 states it. -/
def errState (c : BitVec 4) (s : State) : State :=
  { s with err := true, ecause := if s.ecause = 0 then c else s.ecause }

/-- (a − b) mod 2^W on integers, as 00_scope.md R8 states `a -W b`. -/
def wrapDiff (w a b : Nat) : Nat := (((a : Int) - (b : Int)) % ((2 : Int) ^ w)).toNat

/-- The command of an assigned opcode other than GATE, GATESET and BREN, row by row from 30_encoding.md R83. -/
def plainCommand (op : BitVec 8) : Instr :=
  if op = 0x00#8 then .nop else if op = 0x01#8 then .dlyset else if op = 0x08#8 then .diff
  else if op = 0x09#8 then .elapsed else if op = 0x11#8 then .brstep else if op = 0x20#8 then .btnpoll else .btnconf

/-- R83: the assigned opcodes. -/
def assignedOpcodes : List (BitVec 8) :=
  [0x00, 0x01, 0x08, 0x09, 0x0A, 0x0B, 0x10, 0x11, 0x20, 0x21]

/-- A word with an illegal command encoding, cause 1 (30_encoding.md R85, 60_exceptions.md R211). -/
def IllegalWord (v : Word) : Prop :=
  v.extractLsb' 16 16 ≠ 0#16 ∨ v.extractLsb' 0 8 ∉ assignedOpcodes ∨
    (v.extractLsb' 0 8 = 0x10#8 ∧ v.extractLsb' 9 7 ≠ 0#7) ∨
    (v.extractLsb' 0 8 ∉ [0x0A#8, 0x0B#8, 0x10#8] ∧ v.extractLsb' 8 8 ≠ 0#8)

/-- A GATE or GATESET word whose index names no slot, cause 2 (30_encoding.md R85, 60_exceptions.md R211). -/
def BadIndexWord (c : Config) (v : Word) : Prop :=
  v.extractLsb' 16 16 = 0#16 ∧ v.extractLsb' 0 8 ∈ [0x0A#8, 0x0B#8] ∧ c.nGates ≤ (v.extractLsb' 8 8).toNat

/-- The commands that write RESULT (40_command_port.md R102). -/
def writesResult : Instr → Bool
  | .nop => false
  | .dlyset => false
  | .diff => true
  | .elapsed => true
  | .gate _ => true
  | .gateset _ => false
  | .bren _ => false
  | .brstep => true
  | .btnpoll => true
  | .btnconf => true
  | .tick => false
  | .line _ => false

/-- The block with its window at a base `d` higher (20_memory.md R50: BASE is the platform's). -/
def rebase (d : Nat) (s : State) : State := { s with cfg := { s.cfg with base := s.cfg.base + d } }

/-- The same input with a host access's address `d` higher. -/
def shiftInput (d : Nat) : Input → Input
  | .read addr size => .read (addr + d) size
  | .write addr size v => .write (addr + d) size v
  | .event ev => .event ev
  | .reset ok => .reset ok

/-- The two states have the same breathing generator: EN, DIR, STEP and DUTY (10_state.md R22). -/
def sameWave (s t : State) : Prop := s.en = t.en ∧ s.dir = t.dir ∧ s.stepIdx = t.stepIdx ∧ s.duty = t.duty

/-- A safe run: it ends in a state with ERR = 0. "A claim about a run must take ERR = 0 at the end as a premise"
(60_exceptions.md R213). -/
def SafeRun (ins : List Input) (s : State) : Prop := ∃ t, runOn ins s = .next t ∧ t.err = false

/-- `run` is the infinite run of the block in which the outside does `env 0`, `env 1`, … -/
def InfiniteRun (env : Nat → Input) (run : Nat → State) : Prop := ∀ n, stepOn (env n) (run n) = .next (run (n + 1))

/-- Fairness of an infinite run: "while HALTED = 0, TICK events occur infinitely often" (60_exceptions.md R224), which is
"weak fairness of the tick agent while not halted" (92_eei_decisions.md D29): no point from which on the block always runs
is followed by no TICK event. -/
def FairTicks (env : Nat → Input) (run : Nat → State) : Prop :=
  ∀ n, (∀ m, n ≤ m → (run m).halted = false) → ∃ m, n ≤ m ∧ env m = tickInput

/-- How many steps of a run over the inputs are of the kind `p`, a property of the input and the state it meets. -/
def stepsWhere (p : Input → State → Bool) : List Input → State → Nat
  | [], _ => 0
  | inp :: rest, s =>
    (p inp s).toNat +
      match stepOn inp s with
      | .next t => stepsWhere p rest t
      | .fault _ => 0
      | .refused _ => 0

/-- A BRSTEP command that finds its interval elapsed ("due", 43_breathing.md R162, R163). -/
def dueStep (inp : Input) (s : State) : Bool :=
  decide (inp = cmdInput s.cfg 0x11 ∧ s.halted = false ∧ s.cfg.breathInterval ≤ wrapDiff s.cfg.w s.tick s.brLast)

/-- A GATE g command that finds its threshold reached ("fired", 42_interval.md R143). -/
def firingPoll (g : BitVec 8) (inp : Input) (s : State) : Bool :=
  decide (inp = cmdInput s.cfg (wordOf (.gate g)) ∧ s.halted = false ∧ g.toNat < s.cfg.nGates ∧
    s.arga.toNat ≤ wrapDiff s.cfg.w s.tick (s.gateLast.getD g.toNat 0))

/-- A GATE g command polled with a threshold other than `thr`. -/
def otherThrPoll (g : BitVec 8) (thr : Word) (inp : Input) (s : State) : Bool :=
  decide (inp = cmdInput s.cfg (wordOf (.gate g)) ∧ s.arga ≠ thr)

/-- How many of the inputs are a due BRSTEP command. -/
def dueSteps (ins : List Input) (s : State) : Nat := stepsWhere dueStep ins s

/-- duty(s) of 43_breathing.md R160, for STEPS and PERIOD of the instance. -/
def dutySpec (c : Config) (k : Nat) : Nat := min (k * c.period / c.steps) c.period

/-- The duty value the waveform outputs at its m-th step, 1 ≤ m ≤ 2·STEPS (43_breathing.md R163). -/
def waveDuty (c : Config) (m : Nat) : Nat := if m ≤ c.steps then dutySpec c (m - 1) else dutySpec c (2 * c.steps - m)

/-- The state has its reset values, apart from HALTED, the inputs and what the host has read. -/
def AtReset (s : State) : Prop :=
  s = { State.resetOf s.cfg true with inputs := s.inputs, readData := s.readData, halted := s.halted }

/-- What every state reachable from reset satisfies: the ranges and implications of 10_state.md R35, the W-bit range of
TICK, DELAY and the timestamps (R20, R21, R22, R24, R27), one slot per gate (R27), the written causes only and ERR = 1
exactly with a cause (60_exceptions.md R211, R212), and reset values while halted (R214). -/
structure State.Inv (s : State) : Prop where
  legal : s.cfg.Legal
  tick_lt : s.tick < 2 ^ s.cfg.w
  delay_lt : s.delay < 2 ^ s.cfg.w
  brLast_lt : s.brLast < 2 ^ s.cfg.w
  btnLast_lt : s.btnLast < 2 ^ s.cfg.w
  gates : s.gateLast.length = s.cfg.nGates
  gates_lt : ∀ t ∈ s.gateLast, t < 2 ^ s.cfg.w
  step_le : s.stepIdx.toNat ≤ s.cfg.steps
  duty_le : s.duty.toNat ≤ s.cfg.period
  sel_lt : s.sel.toNat < nSel
  confirmed_pending : s.confirmed = true → s.pending = true
  disabled : s.en = false → s.stepIdx = 0 ∧ s.dir = .rising ∧ s.duty = 0
  rising : s.dir = .rising → s.stepIdx.toNat ≤ s.cfg.steps - 1
  falling : s.dir = .falling → 1 ≤ s.stepIdx.toNat
  cause_le : s.ecause.toNat ≤ 3
  err_cause : s.err = true ↔ s.ecause ≠ 0
  halted_reset : s.halted = true → AtReset s

end Sys2Proof.Machine
end

