-- ==== Sys2Proof/WellFormed.lean ====
section
/-! DEFINITION. Which instructions are well formed for an instance: the gate index must name a slot. -/

namespace Sys2Proof

/-- 30_encoding.md R81: the gate index "must be < NGATES". Every other operand is legal at each value of its type
(BREN's `on` and LINE's v are one bit; no other row has an operand field). -/
def Instr.wf (c : Config) : Instr → Bool
  | .gate g => decide (g.toNat < c.nGates)
  | .gateset g => decide (g.toNat < c.nGates)
  | .nop => true
  | .dlyset => true
  | .diff => true
  | .elapsed => true
  | .bren _ => true
  | .brstep => true
  | .btnpoll => true
  | .btnconf => true
  | .tick => true
  | .line _ => true

end Sys2Proof
end

