-- ==== Sys2Proof/Certificates/Slice0/Obligations.lean ====
section
/-! DEFINITION. The statements about the model, for the provers. -/

open Sys2Proof Sys2Proof.Machine

/-! ### Encoding -/

/-- 30_encoding.md R80, R81, R83, R88, R89: decoding what an instruction is written as gives it back, every operand at
every value. -/
def Obligations.DecodeOfEncode : Prop := ∀ i : Instr, decode (encode i) = .instr i

/-- 30_encoding.md R83, R86, R88: a word or label that decodes to an instruction is the one the instruction is written as. -/
def Obligations.EncodeOfDecode : Prop := ∀ (e : Encoded) (i : Instr), decode e = .instr i → encode i = e

/-- 30_encoding.md R93, R88: words written out from the spec decode to the instruction they stand for, and the spec's
illegal words raise the cause it gives them. -/
def Obligations.SpecWordsDecode : Prop :=
  (decodeCommand 0x00000000#32 = .instr .nop ∧ decodeCommand 0x00000001#32 = .instr .dlyset ∧
    decodeCommand 0x00000008#32 = .instr .diff ∧ decodeCommand 0x00000009#32 = .instr .elapsed ∧
    decodeCommand 0x0000000A#32 = .instr (.gate 0) ∧ decodeCommand 0x0000030A#32 = .instr (.gate 3) ∧
    decodeCommand 0x0000010B#32 = .instr (.gateset 1) ∧ decodeCommand 0x00000010#32 = .instr (.bren false) ∧
    decodeCommand 0x00000110#32 = .instr (.bren true) ∧ decodeCommand 0x00000011#32 = .instr .brstep ∧
    decodeCommand 0x00000020#32 = .instr .btnpoll ∧ decodeCommand 0x00000021#32 = .instr .btnconf) ∧
  (decodeEvent 0b001#3 = .instr .tick ∧ decodeEvent 0b010#3 = .instr (.line false) ∧
    decodeEvent 0b110#3 = .instr (.line true)) ∧
  (∀ (s : State) (v : Word), s.halted = false → v ∈ [0x00010000#32, 0x00000002#32, 0x00000101#32, 0x00000210#32] →
    stepOn (cmdInput s.cfg v) s = .next (errState 1 s)) ∧
  (∀ s : State, s.halted = false → s.cfg.nGates = 4 → stepOn (cmdInput s.cfg 0x0000040A) s = .next (errState 2 s))

/-- 30_encoding.md R84, R85: a write of any word to CMD, check by check in the rule's order. -/
def Obligations.CommandWordChecks : Prop :=
  ∀ (s : State) (v : Word) (op idx : BitVec 8), s.halted = false → op = v.extractLsb' 0 8 → idx = v.extractLsb' 8 8 →
    stepOn (cmdInput s.cfg v) s =
      if v.extractLsb' 16 16 ≠ 0#16 then .next (errState 1 s)
      else if op ∉ assignedOpcodes then .next (errState 1 s)
      else if op = 0x0A#8 ∨ op = 0x0B#8 then
        if s.cfg.nGates ≤ idx.toNat then .next (errState 2 s)
        else exec (if op = 0x0A#8 then .gate idx else .gateset idx) s
      else if op = 0x10#8 then
        if idx.extractLsb' 1 7 ≠ 0#7 then .next (errState 1 s) else exec (.bren (idx.getLsbD 0)) s
      else if idx ≠ 0#8 then .next (errState 1 s)
      else exec (plainCommand op) s

/-- 30_encoding.md R88: the label 001 is TICK, {v, 10} is LINE v, and there is no step for any other label. -/
def Obligations.EventLabels : Prop :=
  ∀ (s : State) (ev : BitVec 3), stepOn (.event ev) s =
    if ev = 0b001#3 then exec .tick s
    else if ev.extractLsb' 0 2 = 0b10#2 then exec (.line (ev.getLsbD 2)) s
    else .refused (.noSuchEvent ev)

/-- 40_command_port.md R100: a step whose next input is a decodable command (while HALTED = 0) or event is the meaning of
the decoded instruction; `step` adds only that the input is taken off the list. -/
def Obligations.StepRunsDecodedInstruction : Prop :=
  ∀ (s : State) (i : Instr) (rest : List Input),
    (∀ v, s.halted = false → s.inputs = cmdInput s.cfg v :: rest → decode (.command v) = .instr i →
      step s = exec i { s with inputs := rest }) ∧
    (∀ ev, s.inputs = .event ev :: rest → decode (.event ev) = .instr i → step s = exec i { s with inputs := rest })

/-- The state `withFetchWord` makes runs exactly the instruction the decoder reads from the table's row (log 14, log 21;
the model's own interface, not a rule of the spec). -/
def Obligations.TableWordIsRunNext : Prop :=
  ∀ (s : State) (nbits w : Nat) (i : Instr), s.halted = false → decodeTableWord nbits w = some i →
    step (s.withFetchWord nbits w) = exec i s

/-! ### The commands and events, one statement each -/

/-- 40_command_port.md R104. -/
def Obligations.NopCommand : Prop :=
  ∀ (s : State), exec .nop s = .next s ∧
    ∀ v : Word, s.halted = false → v.extractLsb' 0 8 = 0x00#8 →
      stepOn (cmdInput s.cfg v) s = .next (if v.extractLsb' 8 24 = 0#24 then s else errState 1 s)

/-- 41_tick_delay.md R120. -/
def Obligations.TickEvent : Prop :=
  ∀ (s : State), exec .tick s = .next (if s.halted then s else { s with
      tick := (s.tick + 1) % 2 ^ s.cfg.w, delay := if s.delay = 0 then 0 else s.delay - 1 }) ∧
    stepOn tickInput s = exec .tick s ∧
    (s.halted = false → s.delay = 1 → ∀ t, stepOn tickInput s = .next t → dlyBusy s = true ∧ dlyBusy t = false)

/-- 41_tick_delay.md R122, R126. -/
def Obligations.DlysetCommand : Prop :=
  ∀ (s : State), s.halted = false →
    exec .dlyset s = .next { s with delay := s.arga.toNat % 2 ^ s.cfg.w } ∧
    (∀ t, exec .dlyset s = .next t → (dlyBusy t = true ↔ s.arga.toNat % 2 ^ s.cfg.w ≠ 0)) ∧
    ∀ v : Word, v.extractLsb' 0 8 = 0x01#8 →
      stepOn (cmdInput s.cfg v) s =
        .next (if v.extractLsb' 8 24 = 0#24 then { s with delay := s.arga.toNat % 2 ^ s.cfg.w } else errState 1 s)

/-- 42_interval.md R141, with its corner cases ts = TICK and ts = TICK + 1. -/
def Obligations.DiffCommand : Prop :=
  ∀ (s : State) (ts : Nat), s.halted = false → s.cfg.Legal → s.tick < 2 ^ s.cfg.w → ts = s.arga.toNat % 2 ^ s.cfg.w →
    exec .diff s = .next { s with result := BitVec.ofNat 32 (wrapDiff s.cfg.w s.tick ts) } ∧
    (∀ t, exec .diff s = .next t → (ts = s.tick → t.result.toNat = 0) ∧
      (ts = (s.tick + 1) % 2 ^ s.cfg.w → t.result.toNat = 2 ^ s.cfg.w - 1)) ∧
    ∀ v : Word, v.extractLsb' 0 8 = 0x08#8 →
      stepOn (cmdInput s.cfg v) s = if v.extractLsb' 8 24 = 0#24 then exec .diff s else .next (errState 1 s)

/-- 42_interval.md R142, with its corner cases delta = 0 and delta ≥ 2^W. -/
def Obligations.ElapsedCommand : Prop :=
  ∀ (s : State) (ts : Nat), s.halted = false → ts = s.arga.toNat % 2 ^ s.cfg.w →
    exec .elapsed s = .next { s with result := if s.argb.toNat ≤ wrapDiff s.cfg.w s.tick ts then 1 else 0 } ∧
    (∀ t, exec .elapsed s = .next t → (s.argb = 0 → t.result = 1) ∧ (2 ^ s.cfg.w ≤ s.argb.toNat → t.result = 0) ∧
      (ts = s.tick → (t.result = 1 ↔ s.argb = 0))) ∧
    ∀ v : Word, v.extractLsb' 0 8 = 0x09#8 →
      stepOn (cmdInput s.cfg v) s = if v.extractLsb' 8 24 = 0#24 then exec .elapsed s else .next (errState 1 s)

/-- 42_interval.md R146: the comparator's answer on intervals that span a wraparound (TICK < ts) and on those that do not,
and where it goes against `TICK ≥ (ts + delta) mod 2^W` and against `TICK − ts ≥ delta` on signed numbers. -/
def Obligations.ElapsedIsNoNaiveForm : Prop :=
  ∀ (s : State) (ts : Nat), s.Inv → s.halted = false → ts = s.arga.toNat % 2 ^ s.cfg.w →
    ∃ t, exec .elapsed s = .next t ∧
      (s.tick < ts →
        (t.result = 1 ↔ s.argb.toNat ≤ s.tick + 2 ^ s.cfg.w - ts) ∧
        (s.argb.toNat ≤ s.tick + 2 ^ s.cfg.w - ts →
          t.result = 1 ∧ ¬ (s.argb.toNat : Int) ≤ (s.tick : Int) - (ts : Int)) ∧
        (ts + s.argb.toNat < 2 ^ s.cfg.w → t.result = 1 ∧ ¬ (ts + s.argb.toNat) % 2 ^ s.cfg.w ≤ s.tick)) ∧
      (ts ≤ s.tick →
        (t.result = 1 ↔ s.argb.toNat ≤ s.tick - ts) ∧
        (2 ^ s.cfg.w ≤ ts + s.argb.toNat → ts + s.argb.toNat ≤ s.tick + 2 ^ s.cfg.w →
          t.result = 0 ∧ (ts + s.argb.toNat) % 2 ^ s.cfg.w ≤ s.tick))

/-- 42_interval.md R143. -/
def Obligations.GateCommand : Prop :=
  ∀ (s : State) (g : BitVec 8), s.halted = false →
    (g.toNat < s.cfg.nGates → exec (.gate g) s = .next
      (if s.arga.toNat ≤ wrapDiff s.cfg.w s.tick (s.gateLast.getD g.toNat 0) then
        { s with gateLast := s.gateLast.set g.toNat s.tick, result := 1 }
       else { s with result := 0 })) ∧
    (s.cfg.nGates ≤ g.toNat → exec (.gate g) s = .next (errState 2 s)) ∧
    (∀ t, exec (.gate g) s = .next t → (∀ h, h ≠ g.toNat → t.gateLast.getD h 0 = s.gateLast.getD h 0) ∧
      (g.toNat < s.cfg.nGates → (s.arga = 0 → t.result = 1) ∧ (2 ^ s.cfg.w ≤ s.arga.toNat → t.result = 0))) ∧
    ∀ v : Word, v.extractLsb' 0 8 = 0x0A#8 → v.extractLsb' 8 8 = g →
      stepOn (cmdInput s.cfg v) s = if v.extractLsb' 16 16 = 0#16 then exec (.gate g) s else .next (errState 1 s)

/-- 42_interval.md R144. -/
def Obligations.GatesetCommand : Prop :=
  ∀ (s : State) (g : BitVec 8), s.halted = false →
    (g.toNat < s.cfg.nGates → exec (.gateset g) s = .next
      { s with gateLast := s.gateLast.set g.toNat (s.arga.toNat % 2 ^ s.cfg.w) }) ∧
    (s.cfg.nGates ≤ g.toNat → exec (.gateset g) s = .next (errState 2 s)) ∧
    ∀ v : Word, v.extractLsb' 0 8 = 0x0B#8 → v.extractLsb' 8 8 = g →
      stepOn (cmdInput s.cfg v) s = if v.extractLsb' 16 16 = 0#16 then exec (.gateset g) s else .next (errState 1 s)

/-- 43_breathing.md R161. -/
def Obligations.BrenCommand : Prop :=
  ∀ (s : State) (on : Bool), s.halted = false →
    exec (.bren on) s = .next
      (if on = true ∧ s.en = true then s else { s with en := on, stepIdx := 0, dir := .rising, duty := 0 }) ∧
    ∀ v : Word, v.extractLsb' 0 8 = 0x10#8 → v.getLsbD 8 = on →
      stepOn (cmdInput s.cfg v) s = if v.extractLsb' 9 23 = 0#23 then exec (.bren on) s else .next (errState 1 s)

/-- 43_breathing.md R162. -/
def Obligations.BrstepCommand : Prop :=
  ∀ (s : State) (k : Nat), s.halted = false → k = s.stepIdx.toNat →
    exec .brstep s = .next
      (if wrapDiff s.cfg.w s.tick s.brLast < s.cfg.breathInterval then { s with result := 0 }
       else if s.en = false then { s with brLast := s.tick, result := 1, duty := 0 }
       else match s.dir with
        | .rising => { s with
            brLast := s.tick, result := 1, duty := BitVec.ofNat 32 (dutySpec s.cfg k)
            stepIdx := if s.cfg.steps ≤ k + 1 then BitVec.ofNat 16 s.cfg.steps else BitVec.ofNat 16 (k + 1)
            dir := if s.cfg.steps ≤ k + 1 then .falling else .rising }
        | .falling => { s with
            brLast := s.tick, result := 1, stepIdx := if k = 0 then 0 else BitVec.ofNat 16 (k - 1)
            duty := BitVec.ofNat 32 (dutySpec s.cfg (k - 1)), dir := if k ≤ 1 then .rising else .falling }) ∧
    ∀ v : Word, v.extractLsb' 0 8 = 0x11#8 →
      stepOn (cmdInput s.cfg v) s = if v.extractLsb' 8 24 = 0#24 then exec .brstep s else .next (errState 1 s)

/-- 44_debounce.md R184. -/
def Obligations.BtnpollCommand : Prop :=
  ∀ (s : State), s.halted = false →
    exec .btnpoll s = .next
      (if s.confirmed = true then
        if s.level = true then { s with pending := false, confirmed := false, result := 2 } else { s with result := 3 }
       else if s.pending = true then { s with result := 1 }
       else { s with result := 0 }) ∧
    ∀ v : Word, v.extractLsb' 0 8 = 0x20#8 →
      stepOn (cmdInput s.cfg v) s = if v.extractLsb' 8 24 = 0#24 then exec .btnpoll s else .next (errState 1 s)

/-- 44_debounce.md R185. -/
def Obligations.BtnconfCommand : Prop :=
  ∀ (s : State), s.halted = false →
    exec .btnconf s = .next
      (if s.pending = true ∧ s.confirmed = false then
        if s.level = false then
          { s with sel := BitVec.ofNat 2 ((s.sel.toNat + 1) % 3), confirmed := true, result := 1 }
        else { s with pending := false, result := 0 }
       else { s with result := 2 }) ∧
    ∀ v : Word, v.extractLsb' 0 8 = 0x21#8 →
      stepOn (cmdInput s.cfg v) s = if v.extractLsb' 8 24 = 0#24 then exec .btnconf s else .next (errState 1 s)

/-- 44_debounce.md R181, R182. -/
def Obligations.LineEvent : Prop :=
  ∀ (s : State) (v : Bool), exec (.line v) s = .next
      (if s.halted = true then s
       else if s.level = true ∧ v = false ∧ s.cfg.debounceWindow < wrapDiff s.cfg.w s.tick s.btnLast then
        { s with level := v, pending := true, btnLast := s.tick }
       else { s with level := v }) ∧
    stepOn (lineInput v) s = exec (.line v) s

/-- Every instruction completes in every state (60_exceptions.md R210: the block raises no trap), and every possible input
has a step. -/
def Obligations.EveryStepCompletes : Prop :=
  (∀ (i : Instr) (s : State), ∃ t, exec i s = .next t) ∧
  (∀ (inp : Input) (s : State), (∃ t, stepOn inp s = .next t) ↔ inp.possible = true)

/-- The frame of all twelve meanings: ARGA and ARGB (40_command_port.md R103) and HALTED (60_exceptions.md R214) never
change, RESULT only in the six commands of 40_command_port.md R102, and ERR and ECAUSE (60_exceptions.md R211, R212) only in
GATE and GATESET with an index that names no slot. That the parameters, what the outside does next and what the host has read
never change is the model's choice, about its own fields (log 1, log 5, log 7). -/
def Obligations.MeaningsFrame : Prop :=
  ∀ (i : Instr) (s t : State), exec i s = .next t →
    (t.cfg = s.cfg ∧ t.inputs = s.inputs ∧ t.readData = s.readData ∧ t.arga = s.arga ∧ t.argb = s.argb ∧
      t.halted = s.halted) ∧
    (writesResult i = false → t.result = s.result) ∧
    (i.wf s.cfg = true → t.err = s.err ∧ t.ecause = s.ecause)

/-! ### The register window -/

/-- 20_memory.md R53, R54, R55, R56 and 41_tick_delay.md R125: what every legal read returns, in every state (halted ones
too), and that it changes nothing else. -/
def Obligations.LegalReads : Prop :=
  ∀ (s : State), s.cfg.Legal →
    (∀ (off : Nat) (v : Word), (off, v) ∈
        [(0x00, BitVec.ofNat 32 (s.tick % 2 ^ s.cfg.w)), (0x04, BitVec.ofNat 32 (s.delay % 2 ^ s.cfg.w)),
         (0x0C, s.arga), (0x10, s.argb), (0x14, s.result),
         (0x18, BitVec.ofNat 32 (s.ecause.toNat * 256 + s.halted.toNat * 4 +
            (if s.delay = 0 then 0 else 2) + s.err.toNat)),
         (0x1C, BitVec.ofNat 32 (s.stepIdx.toNat * 65536 + (if s.dir = .falling then 2 else 0) + s.en.toNat)),
         (0x20, s.duty), (0x24, BitVec.ofNat 32 (s.brLast % 2 ^ s.cfg.w)),
         (0x28, BitVec.ofNat 32 (s.sel.toNat * 16 + s.level.toNat * 4 + s.confirmed.toNat * 2 + s.pending.toNat)),
         (0x2C, BitVec.ofNat 32 (s.btnLast % 2 ^ s.cfg.w))] →
      stepOn (rdInput s.cfg off) s = .next { s with readData := v }) ∧
    (∀ g, g < s.cfg.nGates → stepOn (rdInput s.cfg (0x40 + 4 * g)) s =
      .next { s with readData := BitVec.ofNat 32 (s.gateLast.getD g 0 % 2 ^ s.cfg.w) }) ∧
    (∀ t, stepOn tickInput s = .next t → t.readData = s.readData)

/-- 20_memory.md R52, R62: an illegal access has no effect but ERR(3), and an illegal read returns 0. -/
def Obligations.IllegalAccess : Prop :=
  ∀ (s : State), s.cfg.Legal → s.halted = false →
    (∀ addr size, ¬ ReadLegal s.cfg addr size →
      stepOn (.read addr size) s = .next { errState 3 s with readData := 0 }) ∧
    (∀ addr size v, ¬ WriteLegal s.cfg addr size → stepOn (.write addr size v) s = .next (errState 3 s))

/-- 20_memory.md R57: a write to ARGA or ARGB stores all 32 bits, which are read back unchanged, and does nothing else. -/
def Obligations.OperandWrites : Prop :=
  ∀ (s : State) (v : Word), s.cfg.Legal → s.halted = false →
    stepOn (wrInput s.cfg 0x0C v) s = .next { s with arga := v } ∧
    stepOn (wrInput s.cfg 0x10 v) s = .next { s with argb := v } ∧
    runOn [wrInput s.cfg 0x0C v, rdInput s.cfg 0x0C] s = .next { s with arga := v, readData := v } ∧
    runOn [wrInput s.cfg 0x10 v, rdInput s.cfg 0x10] s = .next { s with argb := v, readData := v }

/-- 20_memory.md R59: no host write other than a command changes anything but ARGA, ARGB, ERR and ECAUSE. -/
def Obligations.WritesReachNoOtherRegister : Prop :=
  ∀ (s : State) (addr size : Nat) (v : Word), Input.write addr size v ≠ cmdInput s.cfg v →
    ∃ a b e k, stepOn (.write addr size v) s = .next { s with arga := a, argb := b, err := e, ecause := k }

/-- 20_memory.md R60, 40_command_port.md R101, 60_exceptions.md R214: while HALTED = 1 nothing changes; HALTED is set at
reset from `timer_cfg_ok` and by nothing else. -/
def Obligations.HaltedChangesNothing : Prop :=
  (∀ (s : State), s.halted = true →
    (∀ ev, namesEvent ev = true → stepOn (.event ev) s = .next s) ∧
    (∀ addr size v, stepOn (.write addr size v) s = .next s) ∧
    (∀ addr size, s.cfg.Legal → ¬ ReadLegal s.cfg addr size →
      stepOn (.read addr size) s = .next { s with readData := 0 }) ∧
    (∀ addr size, ∃ v, stepOn (.read addr size) s = .next { s with readData := v }) ∧
    (∀ i, exec i s = .next s)) ∧
  (∀ (s t : State) (inp : Input), stepOn inp s = .next t →
    t.halted = match inp with
      | .reset ok => !ok
      | _ => s.halted)

/-- 70_reset_and_hazards.md R251: the operand a host writes is seen by the very next command. -/
def Obligations.OperandsSeenByNextCommand : Prop :=
  ∀ (s : State) (i : Instr) (a b w : Word), s.halted = false → encode i = .command w →
    runOn [wrInput s.cfg 0x0C a, wrInput s.cfg 0x10 b, cmdInput s.cfg w] s = exec i { s with arga := a, argb := b }

/-- The window's place is the platform's (20_memory.md R50): moving BASE and every address alike changes nothing else. So
the model's choice of BASE in `State.reset` (log 3) decides no behaviour. -/
def Obligations.BaseIsNeutral : Prop :=
  ∀ (s t : State) (inp : Input) (d : Nat), stepOn inp s = .next t →
    stepOn (shiftInput d inp) (rebase d s) = .next (rebase d t)

/-! ### Errors -/

/-- 60_exceptions.md R211, R212: which step raises which first cause. -/
def Obligations.FirstErrorCause : Prop :=
  ∀ (s t : State) (inp : Input), s.cfg.Legal → s.err = false → s.ecause = 0 → stepOn inp s = .next t → t.err = true →
    (t.ecause = 1 ∧ ∃ v, inp = cmdInput s.cfg v ∧ IllegalWord v) ∨
    (t.ecause = 2 ∧ ∃ v, inp = cmdInput s.cfg v ∧ BadIndexWord s.cfg v) ∨
    (t.ecause = 3 ∧ ((∃ addr size, inp = .read addr size ∧ ¬ ReadLegal s.cfg addr size) ∨
      (∃ addr size v, inp = .write addr size v ∧ ¬ WriteLegal s.cfg addr size)))

/-- 60_exceptions.md R213: ERR and the first cause stay until reset. -/
def Obligations.ErrorsAreSticky : Prop :=
  ∀ (ins : List Input) (s t : State), (∀ inp ∈ ins, inp.agentStep = true) → runOn ins s = .next t →
    (s.err = true → t.err = true) ∧ (s.ecause ≠ 0 → t.ecause = s.ecause)

/-- 60_exceptions.md R213: "An error does not stop the block": whatever ERR and ECAUSE hold, a step that does not read
STATUS does the same to everything else. -/
def Obligations.ErrorsDoNotStopTheBlock : Prop :=
  ∀ (s t : State) (inp : Input) (e : Bool) (k : BitVec 4), inp ≠ rdInput s.cfg 0x18 → stepOn inp s = .next t →
    ∃ e' k', stepOn inp { s with err := e, ecause := k } = .next { t with err := e', ecause := k' }

/-! ### Reset and the invariant -/

/-- 70_reset_and_hazards.md R240, R241, R242: what the reset step leaves, whatever the state before. That it keeps the
parameters, what the outside does next and what the host has read is the model's choice, about its own fields (log 1,
log 15). -/
def Obligations.ResetStep : Prop :=
  ∀ (s : State) (timerCfgOk : Bool), stepOn (.reset timerCfgOk) s = .next {
    cfg := s.cfg, inputs := s.inputs, readData := s.readData
    tick := 0, delay := 0, en := false, dir := .rising, stepIdx := 0, duty := 0, brLast := 0
    pending := false, confirmed := false, btnLast := 0, level := true, sel := BitVec.ofNat 2 s.cfg.selReset
    gateLast := List.replicate s.cfg.nGates 0, arga := 0, argb := 0, result := 0
    err := false, ecause := 0, halted := !timerCfgOk }

/-- The invariant of 10_state.md R35 (with the model's W-bit ranges, log 8) holds after reset of every legal instance, and
so in `State.reset`. -/
def Obligations.InvariantAfterReset : Prop :=
  (∀ (c : Config) (timerCfgOk : Bool), c.Legal → (State.resetOf c timerCfgOk).Inv) ∧ State.reset.Inv

/-- The invariant of 10_state.md R35 (with the model's W-bit ranges, log 8) is kept by every step from every state that
has it. -/
def Obligations.InvariantKeptByEveryStep : Prop :=
  ∀ (s t : State), s.Inv → step s = .next t → t.Inv

/-- 10_state.md R36, 60_exceptions.md R220: what a TICK event, a LINE event, a host read and any host access may write. -/
def Obligations.SingleWriterPerField : Prop :=
  ∀ (s t : State) (inp : Input), inp.agentStep = true → stepOn inp s = .next t →
    (inp = tickInput → t = { s with tick := t.tick, delay := t.delay }) ∧
    (∀ v, inp = lineInput v → t = { s with level := t.level, pending := t.pending, btnLast := t.btnLast } ∧
      (s.pending = true → t.pending = true)) ∧
    (∀ addr size, inp = .read addr size → t = { s with readData := t.readData, err := t.err, ecause := t.ecause }) ∧
    ((∀ ev, inp ≠ .event ev) → t.tick = s.tick ∧ t.btnLast = s.btnLast ∧ t.level = s.level ∧
      (t.pending = true → s.pending = true) ∧ (inp ≠ cmdInput s.cfg 0x01 → t.delay = s.delay))

/-! ### Ticks, delays, gates -/

/-- 41_tick_delay.md R120, R121: k TICK events in a row; after 2^W of them TICK is back where it was, and nothing but TICK
and DELAY has changed (no flag, no error). -/
def Obligations.TicksInARow : Prop :=
  ∀ (s : State) (k : Nat), s.halted = false → s.tick < 2 ^ s.cfg.w →
    runOn (List.replicate k tickInput) s =
      .next { s with tick := (s.tick + k) % 2 ^ s.cfg.w, delay := s.delay - k } ∧
    (k = 2 ^ s.cfg.w → (s.tick + k) % 2 ^ s.cfg.w = s.tick)

/-- 41_tick_delay.md R123: after a DLYSET of n, however the agents interleave, DELAY is 0 from exactly the n-th TICK event
on, and that is when a read of DELAY returns 0. -/
def Obligations.DelayEndsAtNthTick : Prop :=
  ∀ (s : State) (n : Nat) (ins : List Input), s.cfg.Legal → s.halted = false → n = s.arga.toNat % 2 ^ s.cfg.w →
    (∀ inp ∈ ins, inp.agentStep = true ∧ inp ≠ cmdInput s.cfg 0x01) →
    ∃ t u, runOn (cmdInput s.cfg 0x01 :: ins) s = .next t ∧ t.delay = n - tickCount ins ∧
      stepOn (rdInput s.cfg 0x04) t = .next u ∧ (u.readData = 0 ↔ n ≤ tickCount ins)

/-- 42_interval.md R140: between a snapshot of TICK and its use, elapsed is the number of TICK events modulo 2^W, however
the agents interleave; so it is that number while fewer than 2^W have occurred. -/
def Obligations.ElapsedCountsTicks : Prop :=
  ∀ (s : State) (ins : List Input), s.halted = false → s.tick < 2 ^ s.cfg.w → (∀ inp ∈ ins, inp.agentStep = true) →
    ∃ t, runOn ins s = .next t ∧ elapsedSince t s.tick = wrapDiff t.cfg.w t.tick s.tick ∧
      elapsedSince t s.tick = tickCount ins % 2 ^ s.cfg.w ∧
      (tickCount ins < 2 ^ s.cfg.w → elapsedSince t s.tick = tickCount ins)

/-- 42_interval.md R145: after a firing of a gate with a threshold of at least 1, whatever the agents do but GATESET g. Without
a TICK event between, no further poll with a threshold of at least 1 fires. And polled with the same threshold each time, the
gate does not fire while fewer than thr TICK events have occurred; it fires at its first poll after the thr-th. -/
def Obligations.GateFiresOncePerThreshold : Prop :=
  ∀ (s t : State) (g : BitVec 8), s.Inv → s.halted = false → g.toNat < s.cfg.nGates → 1 ≤ s.arga.toNat →
    exec (.gate g) s = .next t → t.result = 1 →
    (∀ ins : List Input,
      (∀ inp ∈ ins, inp.agentStep = true ∧ inp ≠ tickInput ∧ inp ≠ cmdInput s.cfg (wordOf (.gateset g))) →
      ∃ u v, runOn ins t = .next u ∧ exec (.gate g) u = .next v ∧ u.gateLast.getD g.toNat 0 = s.tick ∧
        (1 ≤ u.arga.toNat → v.result = 0)) ∧
    (s.arga.toNat < 2 ^ s.cfg.w → ∀ ins : List Input,
      (∀ inp ∈ ins, inp.agentStep = true ∧ inp ≠ cmdInput s.cfg (wordOf (.gateset g))) →
      stepsWhere (otherThrPoll g s.arga) ins t = 0 → tickCount ins < s.arga.toNat →
      ∃ u v, runOn ins t = .next u ∧ exec (.gate g) u = .next v ∧ u.gateLast.getD g.toNat 0 = s.tick ∧
        (u.arga = s.arga → v.result = 0) ∧
        (tickCount ins + 1 = s.arga.toNat → ∀ more : List Input,
          (∀ inp ∈ more, inp.agentStep = true ∧ inp ≠ tickInput ∧ inp ≠ cmdInput s.cfg (wordOf (.gate g)) ∧
            inp ≠ cmdInput s.cfg (wordOf (.gateset g))) →
          ∃ x y, runOn (tickInput :: more) u = .next x ∧ exec (.gate g) x = .next y ∧
            (x.arga = s.arga → y.result = 1)))

/-- 40_command_port.md R102, 70_reset_and_hazards.md R252: RESULT keeps its value through every step that is not one of
the six commands that write it. -/
def Obligations.ResultKeptUntilNextWriter : Prop :=
  ∀ (ins : List Input) (s t : State), (∀ inp ∈ ins, inp.agentStep = true) →
    (∀ inp ∈ ins, ∀ i, writesResult i = true → inp ≠ cmdInput s.cfg (wordOf i)) → runOn ins s = .next t →
    t.result = s.result

/-! ### The breathing generator -/

/-- 43_breathing.md R160. -/
def Obligations.DutyFunction : Prop :=
  ∀ (c : Config) (k : Nat), c.Legal →
    dutyOf c k = min (k * c.period / c.steps) c.period ∧
    (k ≤ c.steps → dutyOf c k = k * c.period / c.steps ∧ k * c.period < 2 ^ 48 ∧ (dutyWord c k).toNat = dutyOf c k) ∧
    dutyOf c 0 = 0 ∧ dutyOf c c.steps = c.period

/-- 43_breathing.md R163: from the state BREN 1 leaves, after k due BRSTEP commands, whatever else the agents do but BREN 0
and reset, STEP, DIR and DUTY are those of m = ((k − 1) mod 2·STEPS) + 1; the duty rises, then falls, and never exceeds
duty(STEPS − 1). -/
def Obligations.BreathingWaveform : Prop :=
  (∀ (s : State) (ins : List Input), s.cfg.Legal → s.halted = false → s.en = true → s.dir = .rising → s.stepIdx = 0 →
    s.duty = 0 → (∀ inp ∈ ins, inp.agentStep = true ∧ inp ≠ cmdInput s.cfg 0x10) →
    ∃ t, runOn ins s = .next t ∧ t.en = true ∧
      (dueSteps ins s = 0 → sameWave t s) ∧
      (∀ m, 1 ≤ dueSteps ins s → m = (dueSteps ins s - 1) % (2 * s.cfg.steps) + 1 →
        t.stepIdx.toNat = (if m ≤ s.cfg.steps then m else 2 * s.cfg.steps - m) ∧
        t.duty.toNat = waveDuty s.cfg m ∧
        (t.dir = .falling ↔ s.cfg.steps ≤ m ∧ m < 2 * s.cfg.steps))) ∧
  (∀ (c : Config) (m n : Nat), c.Legal → 1 ≤ m → m ≤ n →
    (n ≤ c.steps → waveDuty c m ≤ waveDuty c n) ∧
    (c.steps < m → n ≤ 2 * c.steps → waveDuty c n ≤ waveDuty c m) ∧
    (n ≤ 2 * c.steps → waveDuty c n ≤ dutySpec c (c.steps - 1)))

/-- 43_breathing.md R164: BREN 0 then BREN 1, or reset then BREN 1, restarts the waveform at its bottom; BREN and a due
BRSTEP answer alike from states with the same waveform; and every other step of an agent keeps it, a BRSTEP that is not due
too. -/
def Obligations.WaveformRestartsAndIsDeterministic : Prop :=
  (∀ (s : State), s.halted = false →
    runOn [cmdInput s.cfg 0x10, cmdInput s.cfg 0x110] s =
      .next { s with en := true, dir := .rising, stepIdx := 0, duty := 0 }) ∧
  (∀ (s : State), ∃ t, runOn [.reset true, cmdInput s.cfg 0x110] s = .next t ∧
    t.en = true ∧ t.dir = .rising ∧ t.stepIdx = 0 ∧ t.duty = 0) ∧
  (∀ (s t : State), s.halted = false → t.halted = false → s.cfg = t.cfg → sameWave s t →
    ∀ i u v, i = .bren true ∨ i = .bren false ∨ (i = .brstep ∧
        (s.cfg.breathInterval ≤ wrapDiff s.cfg.w s.tick s.brLast ↔
         t.cfg.breathInterval ≤ wrapDiff t.cfg.w t.tick t.brLast)) →
      exec i s = .next u → exec i t = .next v → sameWave u v) ∧
  (∀ (s t : State) (inp : Input), inp.agentStep = true → inp ≠ cmdInput s.cfg 0x10 → inp ≠ cmdInput s.cfg 0x110 →
    dueStep inp s = false → stepOn inp s = .next t → sameWave s t)

/-- 43_breathing.md R165: the port carries DUTY, the DUTY register reads it, and only BREN and BRSTEP change it. -/
def Obligations.DutyOutput : Prop :=
  ∀ (s : State), dutyOut s = s.duty ∧
    stepOn (rdInput s.cfg 0x20) s = .next { s with readData := dutyOut s } ∧
    ∀ (inp : Input) (t : State), inp.agentStep = true → stepOn inp s = .next t → dutyOut t ≠ dutyOut s →
      inp = cmdInput s.cfg 0x10 ∨ inp = cmdInput s.cfg 0x110 ∨ inp = cmdInput s.cfg 0x11

/-! ### The debounced edge detector and the selector -/

/-- 44_debounce.md R186, 10_state.md R26: SEL advances on a confirming BTNCONF and on nothing else, cycling through three
values; `sel_out` and BTNSTAT[5:4] carry it. -/
def Obligations.SelectorAdvancesOnConfirmation : Prop :=
  (∀ (s t : State) (inp : Input), inp.agentStep = true → stepOn inp s = .next t →
    (t.sel = if inp = cmdInput s.cfg 0x21 ∧ s.halted = false ∧ s.pending = true ∧ s.confirmed = false ∧ s.level = false
      then BitVec.ofNat 2 ((s.sel.toNat + 1) % 3) else s.sel) ∧
    selOut t = t.sel ∧ (btnstatWord t).extractLsb' 4 2 = t.sel) ∧
  (∀ x : BitVec 2, x.toNat < 3 → nextSel x ≠ x ∧ nextSel (nextSel (nextSel x)) = x ∧ (nextSel x).toNat < 3)

/-- 44_debounce.md R187: every transition of (PENDING, CONFIRMED), the unreachable state (0, 1) included. -/
def Obligations.ButtonEventTransitions : Prop :=
  ∀ (s t : State) (inp : Input), inp.agentStep = true → s.halted = false → stepOn inp s = .next t →
    (t.pending, t.confirmed) =
      if inp = lineInput false ∧ s.level = true ∧ s.cfg.debounceWindow < wrapDiff s.cfg.w s.tick s.btnLast then
        (true, s.confirmed)
      else if inp = cmdInput s.cfg 0x20 ∧ s.confirmed = true ∧ s.level = true then (false, false)
      else if inp = cmdInput s.cfg 0x21 ∧ s.pending = true ∧ s.confirmed = false then
        if s.level = true then (false, false) else (true, true)
      else (s.pending, s.confirmed)

/-- 44_debounce.md R189 (a): while the line stays asserted after an accepted edge, the selector advances exactly once if
the host confirms at all, however often it polls and confirms. -/
def Obligations.HeldPressAdvancesOnce : Prop :=
  ∀ (s : State) (ins : List Input), s.halted = false → s.pending = true → s.confirmed = false → s.level = false →
    (∀ inp ∈ ins, inp.agentStep = true ∧ inp ≠ lineInput true) →
    ∃ t, runOn ins s = .next t ∧
      (cmdInput s.cfg 0x21 ∈ ins → t.sel = nextSel s.sel ∧ t.confirmed = true) ∧
      (cmdInput s.cfg 0x21 ∉ ins → t.sel = s.sel ∧ t.confirmed = false)

/-- 44_debounce.md R182, R189 (c): for DEBOUNCE_WINDOW ticks after an accepted edge no further edge is accepted: BTN_LAST
stays and a falling edge sets nothing. -/
def Obligations.NoSecondEdgeInsideTheWindow : Prop :=
  ∀ (s : State) (ins : List Input), s.cfg.Legal → s.halted = false → s.tick < 2 ^ s.cfg.w → s.btnLast = s.tick →
    (∀ inp ∈ ins, inp.agentStep = true) → tickCount ins ≤ s.cfg.debounceWindow →
    ∃ t u, runOn ins s = .next t ∧ t.btnLast = s.btnLast ∧
      stepOn (lineInput false) t = .next u ∧ u.pending = t.pending ∧ u.btnLast = s.btnLast

/-- 70_reset_and_hazards.md R262: the start-up windows of the edge guard, of the first due BRSTEP and of a gate's first
firing, whatever was polled before. -/
def Obligations.StartUpWindows : Prop :=
  ∀ (c : Config) (ins : List Input), c.Legal → (∀ inp ∈ ins, inp.agentStep = true) → tickCount ins < 2 ^ c.w →
    ∃ t, runOn ins (State.resetOf c true) = .next t ∧ t.tick = tickCount ins ∧
      (tickCount ins ≤ c.debounceWindow → t.pending = false ∧ t.btnLast = 0) ∧
      (dueSteps ins (State.resetOf c true) = 0 →
        ∃ u, exec .brstep t = .next u ∧ (u.result = 1 ↔ c.breathInterval ≤ t.tick)) ∧
      (∀ g : BitVec 8, g.toNat < c.nGates → stepsWhere (firingPoll g) ins (State.resetOf c true) = 0 →
        cmdInput c (wordOf (.gateset g)) ∉ ins →
        ∃ u, exec (.gate g) t = .next u ∧ (u.result = 1 ↔ t.arga.toNat ≤ t.tick))

/-- 60_exceptions.md R224, 41_tick_delay.md R124, 70_reset_and_hazards.md R250: in an infinite run with no further DLYSET and
no reset DELAY comes to 0 and stays there if the run is fair, and never changes if no TICK event occurs. -/
def Obligations.DelayEndsUnderFairness : Prop :=
  ∀ (env : Nat → Input) (run : Nat → State), InfiniteRun env run → (run 0).halted = false →
    (∀ n, (env n).agentStep = true ∧ env n ≠ cmdInput (run 0).cfg 0x01) →
    (FairTicks env run → ∃ n, ∀ m, n ≤ m → (run m).delay = 0) ∧
    ((∀ n, env n ≠ tickInput) → ∀ n, (run n).delay = (run 0).delay)
end

