-- ==== Sys2Proof/Laws/Arith.lean ====
section
/-! SUPPORT. W-bit arithmetic: what `subW`, `modW`, `zextW` and `dutyOf` can answer. -/

namespace Sys2Proof.Machine

theorem two_pow_pos (w : Nat) : 0 < 2 ^ w := Nat.pow_pos (by decide)

theorem modW_lt (w v : Nat) : modW w v < 2 ^ w := Nat.mod_lt _ (two_pow_pos w)

theorem modW_of_lt {w v : Nat} (h : v < 2 ^ w) : modW w v = v := Nat.mod_eq_of_lt h

/-- The difference in natural numbers, b below the modulus. -/
theorem subW_eq_nat {w a b : Nat} (hb : b ≤ 2 ^ w) : subW w a b = (a + (2 ^ w - b)) % 2 ^ w := by
  unfold subW
  have h : ((a : Int) - (b : Int)) % ((2 ^ w : Nat) : Int) = (((a + (2 ^ w - b)) % 2 ^ w : Nat) : Int) := by
    rw [Int.natCast_emod, Nat.cast_add, Nat.cast_sub hb, show (a : Int) + (((2 ^ w : Nat) : Int) - (b : Int)) =
      ((a : Int) - b) + ((2 ^ w : Nat) : Int) by ring, Int.add_emod_right]
  rw [h, Int.toNat_natCast]

theorem subW_lt (w a b : Nat) : subW w a b < 2 ^ w := by
  have hp := two_pow_pos w
  unfold subW
  generalize 2 ^ w = n at hp ⊢
  have h0 := Int.emod_nonneg ((a : Int) - b) (b := (n : Int)) (by omega)
  have h1 := Int.emod_lt_of_pos ((a : Int) - b) (b := (n : Int)) (by omega)
  exact (Int.toNat_lt h0).mpr h1

@[simp] theorem subW_self (w a : Nat) : subW w a a = 0 := by simp [subW]

/-- The two cases of a difference of W-bit values: without and with a wraparound between. -/
theorem subW_of_lt {w a b : Nat} (ha : a < 2 ^ w) (hb : b < 2 ^ w) :
    subW w a b = if b ≤ a then a - b else a + 2 ^ w - b := by
  rw [subW_eq_nat (Nat.le_of_lt hb)]
  generalize 2 ^ w = n at ha hb ⊢
  split
  · rw [show a + (n - b) = (a - b) + n by omega, Nat.add_mod_right, Nat.mod_eq_of_lt (by omega)]
  · have h : a + (n - b) < n := by omega
    rw [Nat.mod_eq_of_lt h]; omega

/-- k ticks after a snapshot, elapsed is k modulo 2^W. -/
theorem subW_add_ticks {w a : Nat} (ha : a < 2 ^ w) (k : Nat) : subW w ((a + k) % 2 ^ w) a = k % 2 ^ w := by
  rw [subW_eq_nat (Nat.le_of_lt ha), Nat.mod_add_mod, show a + k + (2 ^ w - a) = k + 2 ^ w by omega,
    Nat.add_mod_right]

/-- The statements' integer form of `-W` is the model's. -/
theorem subW_eq_wrapDiff (w a b : Nat) : subW w a b = wrapDiff w a b := by
  simp [subW, wrapDiff]

/-- A W-bit value reads as itself: the zero-extended bits above W are 0. -/
theorem zextW_toNat {w : Nat} (hw : w ≤ 32) (v : Nat) : (zextW w v).toNat = v % 2 ^ w := by
  have h := modW_lt w v
  have h2 : 2 ^ w ≤ 2 ^ 32 := Nat.pow_le_pow_right (by decide) hw
  simp only [zextW, BitVec.toNat_ofNat]
  exact Nat.mod_eq_of_lt (Nat.lt_of_lt_of_le h h2)

theorem dutyOf_eq_dutySpec (c : Config) (k : Nat) : dutyOf c k = dutySpec c k := rfl

theorem dutyOf_le_period (c : Config) (k : Nat) : dutyOf c k ≤ c.period := Nat.min_le_right _ _

theorem dutyOf_mono (c : Config) {j k : Nat} (h : j ≤ k) : dutyOf c j ≤ dutyOf c k := by
  unfold dutyOf
  exact min_le_min_right _ (Nat.div_le_div_right (Nat.mul_le_mul_right _ h))

/-- DUTY holds a duty value whole. -/
theorem dutyWord_toNat {c : Config} (hc : c.Legal) (k : Nat) : (dutyWord c k).toNat = dutyOf c k := by
  have h := dutyOf_le_period c k
  have hp := hc.2.2.2.1.2
  simp only [dutyWord, BitVec.toNat_ofNat]
  exact Nat.mod_eq_of_lt (by omega)

end Sys2Proof.Machine
end

