-- ==== Sys2Proof/Laws/State.lean ====
section
/-! SUPPORT. One lemma per field per named update of State, true by rfl, so that no proof unfolds an update. -/

namespace Sys2Proof.Machine

@[simp] theorem setResult_cfg (v : Word) (s : State) : (setResult v s).cfg = s.cfg := rfl
@[simp] theorem setResult_inputs (v : Word) (s : State) : (setResult v s).inputs = s.inputs := rfl
@[simp] theorem setResult_readData (v : Word) (s : State) : (setResult v s).readData = s.readData := rfl
@[simp] theorem setResult_tick (v : Word) (s : State) : (setResult v s).tick = s.tick := rfl
@[simp] theorem setResult_delay (v : Word) (s : State) : (setResult v s).delay = s.delay := rfl
@[simp] theorem setResult_en (v : Word) (s : State) : (setResult v s).en = s.en := rfl
@[simp] theorem setResult_dir (v : Word) (s : State) : (setResult v s).dir = s.dir := rfl
@[simp] theorem setResult_stepIdx (v : Word) (s : State) : (setResult v s).stepIdx = s.stepIdx := rfl
@[simp] theorem setResult_duty (v : Word) (s : State) : (setResult v s).duty = s.duty := rfl
@[simp] theorem setResult_brLast (v : Word) (s : State) : (setResult v s).brLast = s.brLast := rfl
@[simp] theorem setResult_pending (v : Word) (s : State) : (setResult v s).pending = s.pending := rfl
@[simp] theorem setResult_confirmed (v : Word) (s : State) : (setResult v s).confirmed = s.confirmed := rfl
@[simp] theorem setResult_btnLast (v : Word) (s : State) : (setResult v s).btnLast = s.btnLast := rfl
@[simp] theorem setResult_level (v : Word) (s : State) : (setResult v s).level = s.level := rfl
@[simp] theorem setResult_sel (v : Word) (s : State) : (setResult v s).sel = s.sel := rfl
@[simp] theorem setResult_gateLast (v : Word) (s : State) : (setResult v s).gateLast = s.gateLast := rfl
@[simp] theorem setResult_arga (v : Word) (s : State) : (setResult v s).arga = s.arga := rfl
@[simp] theorem setResult_argb (v : Word) (s : State) : (setResult v s).argb = s.argb := rfl
@[simp] theorem setResult_result (v : Word) (s : State) : (setResult v s).result = v := rfl
@[simp] theorem setResult_err (v : Word) (s : State) : (setResult v s).err = s.err := rfl
@[simp] theorem setResult_ecause (v : Word) (s : State) : (setResult v s).ecause = s.ecause := rfl
@[simp] theorem setResult_halted (v : Word) (s : State) : (setResult v s).halted = s.halted := rfl

@[simp] theorem setGate_cfg (g : Nat) (v : Nat) (s : State) : (setGate g v s).cfg = s.cfg := rfl
@[simp] theorem setGate_inputs (g : Nat) (v : Nat) (s : State) : (setGate g v s).inputs = s.inputs := rfl
@[simp] theorem setGate_readData (g : Nat) (v : Nat) (s : State) : (setGate g v s).readData = s.readData := rfl
@[simp] theorem setGate_tick (g : Nat) (v : Nat) (s : State) : (setGate g v s).tick = s.tick := rfl
@[simp] theorem setGate_delay (g : Nat) (v : Nat) (s : State) : (setGate g v s).delay = s.delay := rfl
@[simp] theorem setGate_en (g : Nat) (v : Nat) (s : State) : (setGate g v s).en = s.en := rfl
@[simp] theorem setGate_dir (g : Nat) (v : Nat) (s : State) : (setGate g v s).dir = s.dir := rfl
@[simp] theorem setGate_stepIdx (g : Nat) (v : Nat) (s : State) : (setGate g v s).stepIdx = s.stepIdx := rfl
@[simp] theorem setGate_duty (g : Nat) (v : Nat) (s : State) : (setGate g v s).duty = s.duty := rfl
@[simp] theorem setGate_brLast (g : Nat) (v : Nat) (s : State) : (setGate g v s).brLast = s.brLast := rfl
@[simp] theorem setGate_pending (g : Nat) (v : Nat) (s : State) : (setGate g v s).pending = s.pending := rfl
@[simp] theorem setGate_confirmed (g : Nat) (v : Nat) (s : State) : (setGate g v s).confirmed = s.confirmed := rfl
@[simp] theorem setGate_btnLast (g : Nat) (v : Nat) (s : State) : (setGate g v s).btnLast = s.btnLast := rfl
@[simp] theorem setGate_level (g : Nat) (v : Nat) (s : State) : (setGate g v s).level = s.level := rfl
@[simp] theorem setGate_sel (g : Nat) (v : Nat) (s : State) : (setGate g v s).sel = s.sel := rfl
@[simp] theorem setGate_gateLast (g : Nat) (v : Nat) (s : State) :
    (setGate g v s).gateLast = s.gateLast.set g v := rfl
@[simp] theorem setGate_arga (g : Nat) (v : Nat) (s : State) : (setGate g v s).arga = s.arga := rfl
@[simp] theorem setGate_argb (g : Nat) (v : Nat) (s : State) : (setGate g v s).argb = s.argb := rfl
@[simp] theorem setGate_result (g : Nat) (v : Nat) (s : State) : (setGate g v s).result = s.result := rfl
@[simp] theorem setGate_err (g : Nat) (v : Nat) (s : State) : (setGate g v s).err = s.err := rfl
@[simp] theorem setGate_ecause (g : Nat) (v : Nat) (s : State) : (setGate g v s).ecause = s.ecause := rfl
@[simp] theorem setGate_halted (g : Nat) (v : Nat) (s : State) : (setGate g v s).halted = s.halted := rfl

@[simp] theorem answerRead_cfg (v : Word) (s : State) : (answerRead v s).cfg = s.cfg := rfl
@[simp] theorem answerRead_inputs (v : Word) (s : State) : (answerRead v s).inputs = s.inputs := rfl
@[simp] theorem answerRead_readData (v : Word) (s : State) : (answerRead v s).readData = v := rfl
@[simp] theorem answerRead_tick (v : Word) (s : State) : (answerRead v s).tick = s.tick := rfl
@[simp] theorem answerRead_delay (v : Word) (s : State) : (answerRead v s).delay = s.delay := rfl
@[simp] theorem answerRead_en (v : Word) (s : State) : (answerRead v s).en = s.en := rfl
@[simp] theorem answerRead_dir (v : Word) (s : State) : (answerRead v s).dir = s.dir := rfl
@[simp] theorem answerRead_stepIdx (v : Word) (s : State) : (answerRead v s).stepIdx = s.stepIdx := rfl
@[simp] theorem answerRead_duty (v : Word) (s : State) : (answerRead v s).duty = s.duty := rfl
@[simp] theorem answerRead_brLast (v : Word) (s : State) : (answerRead v s).brLast = s.brLast := rfl
@[simp] theorem answerRead_pending (v : Word) (s : State) : (answerRead v s).pending = s.pending := rfl
@[simp] theorem answerRead_confirmed (v : Word) (s : State) : (answerRead v s).confirmed = s.confirmed := rfl
@[simp] theorem answerRead_btnLast (v : Word) (s : State) : (answerRead v s).btnLast = s.btnLast := rfl
@[simp] theorem answerRead_level (v : Word) (s : State) : (answerRead v s).level = s.level := rfl
@[simp] theorem answerRead_sel (v : Word) (s : State) : (answerRead v s).sel = s.sel := rfl
@[simp] theorem answerRead_gateLast (v : Word) (s : State) : (answerRead v s).gateLast = s.gateLast := rfl
@[simp] theorem answerRead_arga (v : Word) (s : State) : (answerRead v s).arga = s.arga := rfl
@[simp] theorem answerRead_argb (v : Word) (s : State) : (answerRead v s).argb = s.argb := rfl
@[simp] theorem answerRead_result (v : Word) (s : State) : (answerRead v s).result = s.result := rfl
@[simp] theorem answerRead_err (v : Word) (s : State) : (answerRead v s).err = s.err := rfl
@[simp] theorem answerRead_ecause (v : Word) (s : State) : (answerRead v s).ecause = s.ecause := rfl
@[simp] theorem answerRead_halted (v : Word) (s : State) : (answerRead v s).halted = s.halted := rfl

@[simp] theorem raiseErr_cfg (c : ErrCause) (s : State) : (raiseErr c s).cfg = s.cfg := rfl
@[simp] theorem raiseErr_inputs (c : ErrCause) (s : State) : (raiseErr c s).inputs = s.inputs := rfl
@[simp] theorem raiseErr_readData (c : ErrCause) (s : State) : (raiseErr c s).readData = s.readData := rfl
@[simp] theorem raiseErr_tick (c : ErrCause) (s : State) : (raiseErr c s).tick = s.tick := rfl
@[simp] theorem raiseErr_delay (c : ErrCause) (s : State) : (raiseErr c s).delay = s.delay := rfl
@[simp] theorem raiseErr_en (c : ErrCause) (s : State) : (raiseErr c s).en = s.en := rfl
@[simp] theorem raiseErr_dir (c : ErrCause) (s : State) : (raiseErr c s).dir = s.dir := rfl
@[simp] theorem raiseErr_stepIdx (c : ErrCause) (s : State) : (raiseErr c s).stepIdx = s.stepIdx := rfl
@[simp] theorem raiseErr_duty (c : ErrCause) (s : State) : (raiseErr c s).duty = s.duty := rfl
@[simp] theorem raiseErr_brLast (c : ErrCause) (s : State) : (raiseErr c s).brLast = s.brLast := rfl
@[simp] theorem raiseErr_pending (c : ErrCause) (s : State) : (raiseErr c s).pending = s.pending := rfl
@[simp] theorem raiseErr_confirmed (c : ErrCause) (s : State) : (raiseErr c s).confirmed = s.confirmed := rfl
@[simp] theorem raiseErr_btnLast (c : ErrCause) (s : State) : (raiseErr c s).btnLast = s.btnLast := rfl
@[simp] theorem raiseErr_level (c : ErrCause) (s : State) : (raiseErr c s).level = s.level := rfl
@[simp] theorem raiseErr_sel (c : ErrCause) (s : State) : (raiseErr c s).sel = s.sel := rfl
@[simp] theorem raiseErr_gateLast (c : ErrCause) (s : State) : (raiseErr c s).gateLast = s.gateLast := rfl
@[simp] theorem raiseErr_arga (c : ErrCause) (s : State) : (raiseErr c s).arga = s.arga := rfl
@[simp] theorem raiseErr_argb (c : ErrCause) (s : State) : (raiseErr c s).argb = s.argb := rfl
@[simp] theorem raiseErr_result (c : ErrCause) (s : State) : (raiseErr c s).result = s.result := rfl
@[simp] theorem raiseErr_err (c : ErrCause) (s : State) : (raiseErr c s).err = true := rfl
@[simp] theorem raiseErr_ecause (c : ErrCause) (s : State) :
    (raiseErr c s).ecause = if s.ecause = 0 then causeCode c else s.ecause := rfl
@[simp] theorem raiseErr_halted (c : ErrCause) (s : State) : (raiseErr c s).halted = s.halted := rfl

@[simp] theorem restartWave_cfg (on : Bool) (s : State) : (restartWave on s).cfg = s.cfg := rfl
@[simp] theorem restartWave_inputs (on : Bool) (s : State) : (restartWave on s).inputs = s.inputs := rfl
@[simp] theorem restartWave_readData (on : Bool) (s : State) : (restartWave on s).readData = s.readData := rfl
@[simp] theorem restartWave_tick (on : Bool) (s : State) : (restartWave on s).tick = s.tick := rfl
@[simp] theorem restartWave_delay (on : Bool) (s : State) : (restartWave on s).delay = s.delay := rfl
@[simp] theorem restartWave_en (on : Bool) (s : State) : (restartWave on s).en = on := rfl
@[simp] theorem restartWave_dir (on : Bool) (s : State) : (restartWave on s).dir = .rising := rfl
@[simp] theorem restartWave_stepIdx (on : Bool) (s : State) : (restartWave on s).stepIdx = 0 := rfl
@[simp] theorem restartWave_duty (on : Bool) (s : State) : (restartWave on s).duty = 0 := rfl
@[simp] theorem restartWave_brLast (on : Bool) (s : State) : (restartWave on s).brLast = s.brLast := rfl
@[simp] theorem restartWave_pending (on : Bool) (s : State) : (restartWave on s).pending = s.pending := rfl
@[simp] theorem restartWave_confirmed (on : Bool) (s : State) : (restartWave on s).confirmed = s.confirmed := rfl
@[simp] theorem restartWave_btnLast (on : Bool) (s : State) : (restartWave on s).btnLast = s.btnLast := rfl
@[simp] theorem restartWave_level (on : Bool) (s : State) : (restartWave on s).level = s.level := rfl
@[simp] theorem restartWave_sel (on : Bool) (s : State) : (restartWave on s).sel = s.sel := rfl
@[simp] theorem restartWave_gateLast (on : Bool) (s : State) : (restartWave on s).gateLast = s.gateLast := rfl
@[simp] theorem restartWave_arga (on : Bool) (s : State) : (restartWave on s).arga = s.arga := rfl
@[simp] theorem restartWave_argb (on : Bool) (s : State) : (restartWave on s).argb = s.argb := rfl
@[simp] theorem restartWave_result (on : Bool) (s : State) : (restartWave on s).result = s.result := rfl
@[simp] theorem restartWave_err (on : Bool) (s : State) : (restartWave on s).err = s.err := rfl
@[simp] theorem restartWave_ecause (on : Bool) (s : State) : (restartWave on s).ecause = s.ecause := rfl
@[simp] theorem restartWave_halted (on : Bool) (s : State) : (restartWave on s).halted = s.halted := rfl

@[simp] theorem riseStep_cfg (s : State) : (riseStep s).cfg = s.cfg := rfl
@[simp] theorem riseStep_inputs (s : State) : (riseStep s).inputs = s.inputs := rfl
@[simp] theorem riseStep_readData (s : State) : (riseStep s).readData = s.readData := rfl
@[simp] theorem riseStep_tick (s : State) : (riseStep s).tick = s.tick := rfl
@[simp] theorem riseStep_delay (s : State) : (riseStep s).delay = s.delay := rfl
@[simp] theorem riseStep_en (s : State) : (riseStep s).en = s.en := rfl
@[simp] theorem riseStep_dir (s : State) :
    (riseStep s).dir = if s.cfg.steps ≤ s.stepIdx.toNat + 1 then .falling else s.dir := rfl
@[simp] theorem riseStep_stepIdx (s : State) :
    (riseStep s).stepIdx = BitVec.ofNat 16 (min (s.stepIdx.toNat + 1) s.cfg.steps) := rfl
@[simp] theorem riseStep_duty (s : State) : (riseStep s).duty = dutyWord s.cfg s.stepIdx.toNat := rfl
@[simp] theorem riseStep_brLast (s : State) : (riseStep s).brLast = s.brLast := rfl
@[simp] theorem riseStep_pending (s : State) : (riseStep s).pending = s.pending := rfl
@[simp] theorem riseStep_confirmed (s : State) : (riseStep s).confirmed = s.confirmed := rfl
@[simp] theorem riseStep_btnLast (s : State) : (riseStep s).btnLast = s.btnLast := rfl
@[simp] theorem riseStep_level (s : State) : (riseStep s).level = s.level := rfl
@[simp] theorem riseStep_sel (s : State) : (riseStep s).sel = s.sel := rfl
@[simp] theorem riseStep_gateLast (s : State) : (riseStep s).gateLast = s.gateLast := rfl
@[simp] theorem riseStep_arga (s : State) : (riseStep s).arga = s.arga := rfl
@[simp] theorem riseStep_argb (s : State) : (riseStep s).argb = s.argb := rfl
@[simp] theorem riseStep_result (s : State) : (riseStep s).result = s.result := rfl
@[simp] theorem riseStep_err (s : State) : (riseStep s).err = s.err := rfl
@[simp] theorem riseStep_ecause (s : State) : (riseStep s).ecause = s.ecause := rfl
@[simp] theorem riseStep_halted (s : State) : (riseStep s).halted = s.halted := rfl

@[simp] theorem fallStep_cfg (s : State) : (fallStep s).cfg = s.cfg := rfl
@[simp] theorem fallStep_inputs (s : State) : (fallStep s).inputs = s.inputs := rfl
@[simp] theorem fallStep_readData (s : State) : (fallStep s).readData = s.readData := rfl
@[simp] theorem fallStep_tick (s : State) : (fallStep s).tick = s.tick := rfl
@[simp] theorem fallStep_delay (s : State) : (fallStep s).delay = s.delay := rfl
@[simp] theorem fallStep_en (s : State) : (fallStep s).en = s.en := rfl
@[simp] theorem fallStep_dir (s : State) :
    (fallStep s).dir = if s.stepIdx.toNat - 1 = 0 then .rising else s.dir := rfl
@[simp] theorem fallStep_stepIdx (s : State) : (fallStep s).stepIdx = BitVec.ofNat 16 (s.stepIdx.toNat - 1) := rfl
@[simp] theorem fallStep_duty (s : State) : (fallStep s).duty = dutyWord s.cfg (s.stepIdx.toNat - 1) := rfl
@[simp] theorem fallStep_brLast (s : State) : (fallStep s).brLast = s.brLast := rfl
@[simp] theorem fallStep_pending (s : State) : (fallStep s).pending = s.pending := rfl
@[simp] theorem fallStep_confirmed (s : State) : (fallStep s).confirmed = s.confirmed := rfl
@[simp] theorem fallStep_btnLast (s : State) : (fallStep s).btnLast = s.btnLast := rfl
@[simp] theorem fallStep_level (s : State) : (fallStep s).level = s.level := rfl
@[simp] theorem fallStep_sel (s : State) : (fallStep s).sel = s.sel := rfl
@[simp] theorem fallStep_gateLast (s : State) : (fallStep s).gateLast = s.gateLast := rfl
@[simp] theorem fallStep_arga (s : State) : (fallStep s).arga = s.arga := rfl
@[simp] theorem fallStep_argb (s : State) : (fallStep s).argb = s.argb := rfl
@[simp] theorem fallStep_result (s : State) : (fallStep s).result = s.result := rfl
@[simp] theorem fallStep_err (s : State) : (fallStep s).err = s.err := rfl
@[simp] theorem fallStep_ecause (s : State) : (fallStep s).ecause = s.ecause := rfl
@[simp] theorem fallStep_halted (s : State) : (fallStep s).halted = s.halted := rfl

end Sys2Proof.Machine
end

