-- ==== Sys2Proof/Laws/Ops.lean ====
section
/-! SUPPORT. One lemma per shared operation: what it can do, said once. -/

namespace Sys2Proof.Machine

/-- A halted block ignores every command and event (60_exceptions.md R214). -/
theorem whenRunning_halted {s : State} (h : s.halted = true) (t : State) : whenRunning s t = .next s := by
  simp [whenRunning, h]

theorem whenRunning_running {s : State} (h : s.halted = false) (t : State) : whenRunning s t = .next t := by
  simp [whenRunning, h]

/-- Inversion: a meaning's next state is the old one (halted) or the one it computed (running). -/
theorem whenRunning_eq_next {s t u : State} :
    whenRunning s t = .next u ↔ (s.halted = true ∧ u = s) ∨ (s.halted = false ∧ u = t) := by
  cases h : s.halted <;> simp [whenRunning, h, eq_comm]

/-- The model's error effect is the statements' (60_exceptions.md R212). -/
theorem raiseErr_eq_errState (c : ErrCause) (s : State) : raiseErr c s = errState (causeCode c) s := rfl

theorem raiseErr_illegalCmd (s : State) : raiseErr .illegalCmd s = errState 1 s := rfl

theorem raiseErr_badIndex (s : State) : raiseErr .badIndex s = errState 2 s := rfl

theorem raiseErr_badAccess (s : State) : raiseErr .badAccess s = errState 3 s := rfl

theorem causeCode_ne_zero (c : ErrCause) : causeCode c ≠ 0 := by cases c <;> decide

/-- A gate's slot holds what was written to it, if the slot exists. -/
theorem readGate_setGate_same {s : State} {g : Nat} (h : g < s.gateLast.length) (v : Nat) :
    readGate (setGate g v s) g = v := by
  simp [readGate, setGate, List.getD, h]

/-- Gate slots are independent (42_interval.md R143). -/
theorem readGate_setGate_of_ne {g h : Nat} (hne : h ≠ g) (v : Nat) (s : State) :
    readGate (setGate g v s) h = readGate s h := by
  simp [readGate, setGate, List.getD, Ne.symm hne]

/-- Writing a slot keeps the number of slots. -/
theorem setGate_length (g v : Nat) (s : State) : (setGate g v s).gateLast.length = s.gateLast.length := by
  simp [setGate]

/-- Writing a W-bit value keeps every slot a W-bit value. -/
theorem setGate_lt {n g v : Nat} {s : State} (hv : v < n) (hs : ∀ t ∈ s.gateLast, t < n) :
    ∀ t ∈ (setGate g v s).gateLast, t < n := by
  intro t ht
  rcases List.mem_or_eq_of_mem_set ht with h | rfl
  · exact hs t h
  · exact hv

/-- A slot that exists, or any other, reads as a W-bit value when all slots hold one. -/
theorem readGate_lt {n g : Nat} {s : State} (hn : 0 < n) (hs : ∀ t ∈ s.gateLast, t < n) : readGate s g < n := by
  unfold readGate
  by_cases h : g < s.gateLast.length
  · rw [List.getD_eq_getElem _ _ h]; exact hs _ (List.getElem_mem h)
  · rw [List.getD_eq_default _ _ (by omega)]; exact hn

/-- What GATE on a slot that exists can do (42_interval.md R143). -/
theorem pollGate_cases (g : Nat) (s : State) :
    (s.arga.toNat ≤ elapsedSince s (readGate s g) ∧ pollGate g s = setResult 1 (setGate g s.tick s)) ∨
    (elapsedSince s (readGate s g) < s.arga.toNat ∧ pollGate g s = setResult 0 s) := by
  unfold pollGate intervalOperand resultFlag
  split
  · left; simpa
  · right; simp_all

/-- What a due BRSTEP's transition can do (43_breathing.md R162). -/
theorem waveStep_cases (s : State) :
    (s.en = false ∧ waveStep s = { s with duty := 0 }) ∨
    (s.en = true ∧ s.dir = .rising ∧ waveStep s = riseStep s) ∨
    (s.en = true ∧ s.dir = .falling ∧ waveStep s = fallStep s) := by
  cases he : s.en <;> cases hd : s.dir <;> simp [waveStep, he, hd]

/-- What BRSTEP can do (43_breathing.md R162). -/
theorem execBrstep_cases (s : State) :
    (s.halted = true ∧ execBrstep s = .next s) ∨
    (s.halted = false ∧ elapsedSince s s.brLast < s.cfg.breathInterval ∧ execBrstep s = .next (setResult 0 s)) ∨
    (s.halted = false ∧ s.cfg.breathInterval ≤ elapsedSince s s.brLast ∧
      execBrstep s = .next (waveStep { s with brLast := s.tick, result := 1 })) := by
  cases h : s.halted
  · by_cases hd : s.cfg.breathInterval ≤ elapsedSince s s.brLast
    · right; right; simp [execBrstep, whenRunning, brDue, h, hd, resultFlag]
    · right; left; simp [execBrstep, whenRunning, brDue, h, resultFlag, hd]; omega
  · left; simp [execBrstep, whenRunning, h]

/-- What the edge handler can do (44_debounce.md R182). -/
theorem fallingEdge_cases (s : State) :
    (s.cfg.debounceWindow < elapsedSince s s.btnLast ∧ fallingEdge s = { s with pending := true, btnLast := s.tick }) ∨
    (elapsedSince s s.btnLast ≤ s.cfg.debounceWindow ∧ fallingEdge s = s) := by
  by_cases h : s.cfg.debounceWindow < elapsedSince s s.btnLast
  · left; simp [fallingEdge, edgeAccepted, h]
  · right; simp [fallingEdge, edgeAccepted, h]; omega

/-- Every meaning answers a next state. -/
theorem exec_next (i : Instr) (s : State) : ∃ t, exec i s = .next t := by
  cases i <;> exact ⟨_, rfl⟩

/-- A halted block: no meaning changes anything (60_exceptions.md R214). -/
theorem exec_halted {s : State} (h : s.halted = true) (i : Instr) : exec i s = .next s := by
  cases i <;> exact whenRunning_halted h _

end Sys2Proof.Machine
end

