-- ==== Sys2Proof/Laws/Bus.lean ====
section
/-! SUPPORT. The register window and the step: which accesses are legal, and what one step over an input can do. -/

namespace Sys2Proof.Machine

/-- The register at an aligned offset inside the window. -/
theorem windowReg_offset (c : Config) {off : Nat} (h : off < 0x80) (h4 : off % 4 = 0) :
    windowReg c (c.base + off) 4 = regAt c off := by
  have e : c.base + off - c.base = off := by omega
  simp [windowReg, e, h, h4]

/-- Inversion: an access names a register only at an aligned 4-byte offset of the window. -/
theorem windowReg_some {c : Config} {addr size : Nat} {r : Reg} (h : windowReg c addr size = some r) :
    size = 4 ∧ ∃ off, off < 0x80 ∧ off % 4 = 0 ∧ addr = c.base + off ∧ regAt c off = some r := by
  unfold windowReg at h
  split at h
  · rename_i hc
    exact ⟨hc.2.2.2, addr - c.base, hc.2.1, hc.2.2.1, by omega, h⟩
  · cases h

/-- The registers of the map below the gates (20_memory.md R51). -/
def fixedRegs : List (Nat × Reg) :=
  [(0x00, .tick), (0x04, .delay), (0x08, .cmd), (0x0C, .arga), (0x10, .argb), (0x14, .result), (0x18, .status),
   (0x1C, .brstat), (0x20, .duty), (0x24, .brlast), (0x28, .btnstat), (0x2C, .btnlast)]

/-- Inversion of the register map (20_memory.md R51). -/
theorem regAt_some {c : Config} {off : Nat} {r : Reg} (h : regAt c off = some r) :
    (off, r) ∈ fixedRegs ∨ (0x40 ≤ off ∧ off < 0x40 + 4 * c.nGates ∧ r = .gatelast ((off - 0x40) / 4)) := by
  unfold regAt at h
  split at h
  all_goals first
    | (injection h with h; subst h; left; decide)
    | (split at h
       · injection h with h; subst h; right; rename_i hc; exact ⟨hc.1, hc.2, rfl⟩
       · cases h)

/-- Each of them but CMD stands at a readable offset (20_memory.md R51). -/
theorem fixedRegs_readable : ∀ e ∈ fixedRegs, e.2 ≠ .cmd →
    e.1 ∈ [0x00, 0x04, 0x0C, 0x10, 0x14, 0x18, 0x1C, 0x20, 0x24, 0x28, 0x2C] := by decide

/-- The writable registers stand at their own offsets only (20_memory.md R51). -/
theorem fixedRegs_writable : ∀ e ∈ fixedRegs, (e.2 = .cmd → e.1 = 0x08) ∧ (e.2 = .arga → e.1 = 0x0C) ∧
    (e.2 = .argb → e.1 = 0x10) := by decide

/-- The register of gate slot g (20_memory.md R51). -/
theorem regAt_gate {c : Config} {g : Nat} (h : g < c.nGates) : regAt c (0x40 + 4 * g) = some (.gatelast g) := by
  have e : (0x40 + 4 * g - 0x40) / 4 = g := by omega
  unfold regAt
  split <;> first | omega | (rw [if_pos (by omega), e])

/-- The only readable registers are those of the map that are not CMD (20_memory.md R52). -/
theorem legalRead_isSome_iff {s : State} (hc : s.cfg.Legal) (addr size : Nat) :
    (legalRead s addr size).isSome = true ↔ ReadLegal s.cfg addr size := by
  constructor
  · intro h
    unfold legalRead at h
    cases hw : windowReg s.cfg addr size with
    | none => simp [hw] at h
    | some r =>
      obtain ⟨h4, off, _, hal, ha, hr⟩ := windowReg_some hw
      refine ⟨h4, off, ha, ?_⟩
      rcases regAt_some hr with hm | ⟨h1, h2, rfl⟩
      · left
        exact fixedRegs_readable _ hm (by rintro rfl; simp [hw, regValue] at h)
      · right
        exact ⟨(off - 0x40) / 4, by omega, by omega⟩
  · rintro ⟨rfl, off, rfl, hoff⟩
    rcases hoff with hoff | ⟨g, hg, rfl⟩
    · simp only [List.mem_cons, List.not_mem_nil, or_false] at hoff
      rcases hoff with rfl | rfl | rfl | rfl | rfl | rfl | rfl | rfl | rfl | rfl | rfl <;>
        (rw [legalRead, windowReg_offset _ (by decide) (by decide)]; rfl)
    · have hn := hc.2.1.2
      simp [legalRead, windowReg_offset s.cfg (off := 0x40 + 4 * g) (by omega) (by omega), regAt_gate hg, regValue]

/-- The only writable registers are CMD, ARGA and ARGB (20_memory.md R52). -/
theorem windowReg_writable_iff {c : Config} {addr size : Nat} :
    (windowReg c addr size = some .cmd ↔ size = 4 ∧ addr = c.base + 0x08) ∧
    (windowReg c addr size = some .arga ↔ size = 4 ∧ addr = c.base + 0x0C) ∧
    (windowReg c addr size = some .argb ↔ size = 4 ∧ addr = c.base + 0x10) := by
  refine ⟨⟨?_, ?_⟩, ⟨?_, ?_⟩, ⟨?_, ?_⟩⟩
  all_goals first
    | (rintro ⟨rfl, rfl⟩; rw [windowReg_offset] <;> simp [regAt])
    | (intro h
       obtain ⟨h4, off, _, _, ha, hr⟩ := windowReg_some h
       rcases regAt_some hr with hm | ⟨_, _, hg⟩
       · have hm := fixedRegs_writable _ hm
         refine ⟨h4, ?_⟩
         simp at hm
         omega
       · cases hg)

/-! ### One step over an input -/

@[simp] theorem stepOn_reset (ok : Bool) (s : State) : stepOn (.reset ok) s = .next (takeReset ok s) := rfl

theorem stepOn_event (ev : BitVec 3) (s : State) :
    stepOn (.event ev) s =
      match decodeEvent ev with
      | .instr i => exec i s
      | .illegal _ => .refused (.noSuchEvent ev) := by
  simp only [stepOn, step, takeInput, takeOne]
  cases decodeEvent ev <;> rfl

@[simp] theorem stepOn_tick (s : State) : stepOn tickInput s = execTick s := rfl

@[simp] theorem stepOn_line (v : Bool) (s : State) : stepOn (lineInput v) s = execLine v s := by cases v <;> rfl

@[simp] theorem stepOn_read (addr size : Nat) (s : State) :
    stepOn (.read addr size) s = .next (hostRead addr size s) := rfl

theorem stepOn_write (addr size : Nat) (v : Word) (s : State) :
    stepOn (.write addr size v) s =
      match hostWrite addr size v s with
      | .done t => .next t
      | .run i t => exec i t
      | .noEvent ev => .refused (.noSuchEvent ev) := rfl

/-- A command the host writes while the block runs (40_command_port.md R100). -/
theorem stepOn_cmd {s : State} (h : s.halted = false) (v : Word) :
    stepOn (cmdInput s.cfg v) s =
      match decodeCommand v with
      | .instr i => exec i s
      | .illegal _ => .next (errState 1 s) := by
  have hw : windowReg s.cfg (s.cfg.base + 0x08) 4 = some .cmd := windowReg_writable_iff.1.mpr ⟨rfl, rfl⟩
  simp only [cmdInput, wrInput, stepOn_write, hostWrite, h, hw, writeCmd]
  cases decodeCommand v <;> rfl

/-- Inversion: what a host write can do (20_memory.md R52, R57 to R60). -/
theorem stepOn_write_cases (addr size : Nat) (v : Word) (s : State) :
    (s.halted = true ∧ stepOn (.write addr size v) s = .next s) ∨
    (s.halted = false ∧ Input.write addr size v = wrInput s.cfg 0x0C v ∧
      stepOn (.write addr size v) s = .next { s with arga := v }) ∨
    (s.halted = false ∧ Input.write addr size v = wrInput s.cfg 0x10 v ∧
      stepOn (.write addr size v) s = .next { s with argb := v }) ∨
    (∃ i, s.halted = false ∧ Input.write addr size v = cmdInput s.cfg v ∧ decodeCommand v = .instr i ∧
      stepOn (.write addr size v) s = exec i s) ∨
    (∃ e, s.halted = false ∧ Input.write addr size v = cmdInput s.cfg v ∧ decodeCommand v = .illegal e ∧
      stepOn (.write addr size v) s = .next (errState 1 s)) ∨
    (s.halted = false ∧ ¬ WriteLegal s.cfg addr size ∧ stepOn (.write addr size v) s = .next (errState 3 s)) := by
  cases hh : s.halted
  · have W := @windowReg_writable_iff s.cfg addr size
    by_cases h1 : windowReg s.cfg addr size = some .cmd
    · obtain ⟨rfl, rfl⟩ := W.1.mp h1
      have hs := stepOn_cmd hh v
      cases hd : decodeCommand v with
      | instr i => right; right; right; left; exact ⟨i, rfl, rfl, rfl, by rw [hd] at hs; exact hs⟩
      | illegal e => right; right; right; right; left; exact ⟨e, rfl, rfl, rfl, by rw [hd] at hs; exact hs⟩
    by_cases h2 : windowReg s.cfg addr size = some .arga
    · obtain ⟨rfl, rfl⟩ := W.2.1.mp h2
      right; left; exact ⟨rfl, rfl, by simp [stepOn_write, hostWrite, hh, h2]⟩
    by_cases h3 : windowReg s.cfg addr size = some .argb
    · obtain ⟨rfl, rfl⟩ := W.2.2.mp h3
      right; right; left; exact ⟨rfl, rfl, by simp [stepOn_write, hostWrite, hh, h3]⟩
    · right; right; right; right; right
      refine ⟨rfl, ?_, ?_⟩
      · rintro ⟨rfl, off, rfl, hoff⟩
        simp only [List.mem_cons, List.not_mem_nil, or_false] at hoff
        rcases hoff with rfl | rfl | rfl
        · exact h1 (W.1.mpr ⟨rfl, rfl⟩)
        · exact h2 (W.2.1.mpr ⟨rfl, rfl⟩)
        · exact h3 (W.2.2.mpr ⟨rfl, rfl⟩)
      · have hb : badAccess s = errState 3 s := by simp [badAccess, hh, raiseErr_badAccess]
        rw [stepOn_write]
        unfold hostWrite
        simp only [hh]
        cases hw : windowReg s.cfg addr size with
        | none => simp [hb]
        | some r => cases r <;> simp_all
  · left; exact ⟨rfl, by simp [stepOn_write, hostWrite, hh]⟩

/-- Inversion: what a host read can do (20_memory.md R52, R53, R60). -/
theorem stepOn_read_cases (addr size : Nat) (s : State) :
    (∃ v, legalRead s addr size = some v ∧ stepOn (.read addr size) s = .next { s with readData := v }) ∨
    (legalRead s addr size = none ∧ s.halted = true ∧
      stepOn (.read addr size) s = .next { s with readData := 0 }) ∨
    (legalRead s addr size = none ∧ s.halted = false ∧
      stepOn (.read addr size) s = .next { errState 3 s with readData := 0 }) := by
  cases hl : legalRead s addr size with
  | some v => left; exact ⟨v, rfl, by simp [hostRead, hl, answerRead]⟩
  | none =>
    cases hh : s.halted
    · right; right; exact ⟨rfl, rfl, by simp [hostRead, hl, answerRead, badAccess, hh, raiseErr_badAccess]⟩
    · right; left; exact ⟨rfl, rfl, by simp [hostRead, hl, answerRead, badAccess, hh]⟩

/-- Inversion: an event that has a step is TICK or LINE v. -/
theorem stepOn_event_cases (ev : BitVec 3) (s : State) :
    (Input.event ev = tickInput ∧ stepOn (.event ev) s = exec .tick s) ∨
    (∃ v, Input.event ev = lineInput v ∧ stepOn (.event ev) s = exec (.line v) s) ∨
    (namesEvent ev = false ∧ stepOn (.event ev) s = .refused (.noSuchEvent ev)) := by
  have h : ∀ ev : BitVec 3, ev = 0b001#3 ∨ ev = 0b010#3 ∨ ev = 0b110#3 ∨
      (namesEvent ev = false ∧ decodeEvent ev = .illegal .noSuchEvent) := by decide
  rcases h ev with rfl | rfl | rfl | ⟨h1, h2⟩
  · left; exact ⟨rfl, rfl⟩
  · right; left; exact ⟨false, rfl, rfl⟩
  · right; left; exact ⟨true, rfl, rfl⟩
  · right; right; exact ⟨h1, by rw [stepOn_event, h2]⟩

/-- Inversion: everything one step over an input can do. Either it is the reset step; or the meaning of the event or of
the decoded command runs; or it is a host access that runs nothing, and then at most ARGA, ARGB and the value read change
(and neither operand while HALTED = 1), or, while running, an error is raised. -/
theorem stepOn_cases {inp : Input} {s t : State} (h : stepOn inp s = .next t) :
    (∃ ok, inp = .reset ok ∧ t = takeReset ok s) ∨
    (inp = tickInput ∧ exec .tick s = .next t) ∨
    (∃ v, inp = lineInput v ∧ exec (.line v) s = .next t) ∨
    (∃ v i, s.halted = false ∧ inp = cmdInput s.cfg v ∧ decodeCommand v = .instr i ∧ exec i s = .next t) ∨
    (∃ a b d, (∀ ev, inp ≠ .event ev) ∧ (s.halted = true → a = s.arga ∧ b = s.argb) ∧
      t = { s with arga := a, argb := b, readData := d }) ∨
    (∃ c d, (∀ ev, inp ≠ .event ev) ∧ s.halted = false ∧ (c = 1 ∨ c = 3) ∧ t = { errState c s with readData := d }) := by
  cases inp with
  | reset ok => left; simp at h; exact ⟨ok, rfl, h.symm⟩
  | event ev =>
    rcases stepOn_event_cases ev s with ⟨hi, e⟩ | ⟨v, hi, e⟩ | ⟨_, e⟩ <;> rw [e] at h
    · right; left; exact ⟨hi, h⟩
    · right; right; left; exact ⟨v, hi, h⟩
    · cases h
  | read addr size =>
    right; right; right; right
    rcases stepOn_read_cases addr size s with ⟨v, _, e⟩ | ⟨_, _, e⟩ | ⟨_, hh, e⟩ <;> rw [e] at h <;> injection h with h
    · left; exact ⟨s.arga, s.argb, v, nofun, fun _ => ⟨rfl, rfl⟩, h.symm⟩
    · left; exact ⟨s.arga, s.argb, 0, nofun, fun _ => ⟨rfl, rfl⟩, h.symm⟩
    · right; exact ⟨3, 0, nofun, hh, .inr rfl, h.symm⟩
  | write addr size v =>
    right; right; right
    rcases stepOn_write_cases addr size v s with ⟨_, e⟩ | ⟨hh, _, e⟩ | ⟨hh, _, e⟩ | ⟨i, hh, hi, hd, e⟩ |
      ⟨_, hh, _, _, e⟩ | ⟨hh, _, e⟩ <;> rw [e] at h
    · right; left; injection h with h; exact ⟨s.arga, s.argb, s.readData, nofun, fun _ => ⟨rfl, rfl⟩, h.symm⟩
    · right; left; injection h with h; exact ⟨v, s.argb, s.readData, nofun, fun x => by simp [hh] at x, h.symm⟩
    · right; left; injection h with h; exact ⟨s.arga, v, s.readData, nofun, fun x => by simp [hh] at x, h.symm⟩
    · left; exact ⟨v, i, hh, hi, hd, h⟩
    · right; right; injection h with h; exact ⟨1, s.readData, nofun, hh, .inl rfl, h.symm⟩
    · right; right; injection h with h; exact ⟨3, s.readData, nofun, hh, .inr rfl, h.symm⟩

/-- A run of a list put together is the second run after the first. -/
theorem runOn_append {s t : State} {xs : List Input} (h : runOn xs s = .next t) (ys : List Input) :
    runOn (xs ++ ys) s = runOn ys t := by
  induction xs generalizing s with
  | nil => cases h; rfl
  | cons inp rest ih =>
    simp only [runOn, List.cons_append] at h ⊢
    cases hs : stepOn inp s with
    | next u => rw [hs] at h; exact ih h
    | fault r => rw [hs] at h; cases h
    | refused r => rw [hs] at h; cases h

/-- An invariant of every step over the inputs of a list holds at the end of the run, and the run has an end if every
step has one. -/
theorem runOn_keeps {P : State → Prop} {ins : List Input} {s : State} (h0 : P s)
    (hstep : ∀ inp ∈ ins, ∀ u, P u → ∃ t, stepOn inp u = .next t ∧ P t) : ∃ t, runOn ins s = .next t ∧ P t := by
  induction ins generalizing s with
  | nil => exact ⟨s, rfl, h0⟩
  | cons inp rest ih =>
    obtain ⟨t, ht, hp⟩ := hstep inp (by simp) s h0
    obtain ⟨u, hu, hpu⟩ := ih hp fun i hi => hstep i (by simp [hi])
    exact ⟨u, by simp [runOn, ht, hu], hpu⟩

/-! ### Counting steps, and infinite runs -/

@[simp] theorem stepsWhere_nil (p : Input → State → Bool) (s : State) : stepsWhere p [] s = 0 := rfl

/-- The count over a list whose first step is answered. -/
theorem stepsWhere_cons {p : Input → State → Bool} {inp : Input} {s t : State} (h : stepOn inp s = .next t)
    (rest : List Input) : stepsWhere p (inp :: rest) s = (p inp s).toNat + stepsWhere p rest t := by
  simp [stepsWhere, h]

/-- No step of the list is one of those counted. -/
theorem stepsWhere_cons_eq_zero {p : Input → State → Bool} {inp : Input} {s t : State} (h : stepOn inp s = .next t)
    (rest : List Input) : stepsWhere p (inp :: rest) s = 0 ↔ p inp s = false ∧ stepsWhere p rest t = 0 := by
  rw [stepsWhere_cons h, Nat.add_eq_zero_iff]
  cases p inp s <;> simp

/-- An invariant of every step holds all along an infinite run that starts with it. -/
theorem infiniteRun_keeps {P : State → Prop} {env : Nat → Input} {run : Nat → State} (h : InfiniteRun env run)
    (h0 : P (run 0)) (hstep : ∀ n t, P (run n) → stepOn (env n) (run n) = .next t → P t) (n : Nat) : P (run n) := by
  induction n with
  | zero => exact h0
  | succ n ih => exact hstep n _ ih (h n)

end Sys2Proof.Machine
end

