-- ==== Sys2Proof/Laws/Decode.lean ====
section
/-! SUPPORT. The fields of a command word, and what the decoder answers on the words of one opcode. -/

namespace Sys2Proof

/-- A command word has the fields it was put together from (30_encoding.md R80, R89). -/
theorem commandWord_fields (op idx : BitVec 8) :
    rsvField (commandWord op idx) = 0#16 ∧ opField (commandWord op idx) = op ∧ idxField (commandWord op idx) = idx := by
  refine ⟨?_, ?_, ?_⟩ <;>
  simp only [rsvField, opField, idxField, commandWord, BitVec.toNat_eq, BitVec.extractLsb'_toNat,
    Nat.shiftRight_eq_div_pow, BitVec.toNat_ofNat, BitVec.toNat_append] <;>
  have h1 := op.isLt <;> have h2 := idx.isLt <;> rw [← Nat.shiftLeft_add_eq_or_of_lt h1] <;>
  simp [Nat.shiftLeft_eq] <;> omega

/-- A word with RSV = 0 is the command word of its own opcode and index. -/
theorem commandWord_of_fields {v : BitVec 32} (h : rsvField v = 0#16) : commandWord (opField v) (idxField v) = v := by
  simp only [rsvField, opField, idxField, commandWord, BitVec.toNat_eq, BitVec.extractLsb'_toNat,
    Nat.shiftRight_eq_div_pow, BitVec.toNat_ofNat, BitVec.toNat_append] at *
  have := v.isLt
  rw [← Nat.shiftLeft_add_eq_or_of_lt (by omega)]
  simp [Nat.shiftLeft_eq] at *
  omega

/-- RSV and IDX both 0, as one field. -/
theorem rsv_idx_zero_iff (v : BitVec 32) :
    v.extractLsb' 8 24 = 0#24 ↔ v.extractLsb' 16 16 = 0#16 ∧ v.extractLsb' 8 8 = 0#8 := by
  simp only [BitVec.toNat_eq, BitVec.extractLsb'_toNat, Nat.shiftRight_eq_div_pow, BitVec.toNat_ofNat]
  omega

/-- RSV and IDX[7:1] both 0, as one field. -/
theorem rsv_idx_upper_zero_iff (v : BitVec 32) :
    v.extractLsb' 9 23 = 0#23 ↔ v.extractLsb' 16 16 = 0#16 ∧ (v.extractLsb' 8 8).extractLsb' 1 7 = 0#7 := by
  simp only [BitVec.toNat_eq, BitVec.extractLsb'_toNat, Nat.shiftRight_eq_div_pow, BitVec.toNat_ofNat]
  omega

/-- Decoding the words of an opcode whose IDX must be 0. -/
theorem decodeCommand_plain {v : BitVec 32} {op : BitVec 8} {i : Instr} (h : v.extractLsb' 0 8 = op)
    (hp : plainOp op plainOpcodes = some i) :
    decodeCommand v = if v.extractLsb' 8 24 = 0#24 then .instr i else
      .illegal (if v.extractLsb' 16 16 ≠ 0#16 then .reservedBits else .nonzeroIndex) := by
  have h1 : op ≠ 10#8 := by rintro rfl; exact absurd hp (by decide +revert)
  have h2 : op ≠ 11#8 := by rintro rfl; exact absurd hp (by decide +revert)
  have h3 : op ≠ 16#8 := by rintro rfl; exact absurd hp (by decide +revert)
  have hz := rsv_idx_zero_iff v
  by_cases ha : v.extractLsb' 16 16 = 0#16 <;> by_cases hb : v.extractLsb' 8 8 = 0#8 <;>
    simp [decodeCommand, decodeOp, rsvField, opField, idxField, h, h1, h2, h3, hp, ha, hb, hz]

/-- Decoding the words of GATE and GATESET: any index (the slot's existence is checked by the meaning). -/
theorem decodeCommand_gates {v : BitVec 32} (h : v.extractLsb' 0 8 = 0x0A#8 ∨ v.extractLsb' 0 8 = 0x0B#8) :
    decodeCommand v = if v.extractLsb' 16 16 = 0#16 then
      .instr (if v.extractLsb' 0 8 = 0x0A#8 then .gate (v.extractLsb' 8 8) else .gateset (v.extractLsb' 8 8))
      else .illegal .reservedBits := by
  rcases h with h | h <;> by_cases ha : v.extractLsb' 16 16 = 0#16 <;>
    simp [decodeCommand, decodeOp, rsvField, opField, idxField, h, ha]

/-- Decoding the words of BREN. -/
theorem decodeCommand_bren {v : BitVec 32} (h : v.extractLsb' 0 8 = 0x10#8) :
    decodeCommand v = if v.extractLsb' 9 23 = 0#23 then .instr (.bren (v.getLsbD 8)) else
      .illegal (if v.extractLsb' 16 16 ≠ 0#16 then .reservedBits else .brenIndex) := by
  have hz := rsv_idx_upper_zero_iff v
  by_cases ha : v.extractLsb' 16 16 = 0#16 <;> by_cases hb : (v.extractLsb' 8 8).extractLsb' 1 7 = 0#7 <;>
    simp [decodeCommand, decodeOp, rsvField, opField, idxField, h, ha, hb, hz]

end Sys2Proof
end

