-- ==== Sys2Proof/Laws/PerInstr.lean ====
section
/-! SUPPORT. One statement about the syntax of every instruction, and its lemma for each constructor. -/

namespace Sys2Proof.Laws.TableRow

/-- What an instruction is written as has its row of spec/opcode_table.json: the bits under the row's mask are the row's
match, and the operand field holds the operand (30_encoding.md R80, R83, R88). -/
def Statement : Instr → Prop
  | .nop => encode .nop = .command 0x00000000#32
  | .dlyset => encode .dlyset = .command 0x00000001#32
  | .diff => encode .diff = .command 0x00000008#32
  | .elapsed => encode .elapsed = .command 0x00000009#32
  | .gate g => ∃ v : BitVec 32, encode (.gate g) = .command v ∧ v &&& 0xFFFF00FF#32 = 0x0000000A#32 ∧
      v.extractLsb' 8 8 = g
  | .gateset g => ∃ v : BitVec 32, encode (.gateset g) = .command v ∧ v &&& 0xFFFF00FF#32 = 0x0000000B#32 ∧
      v.extractLsb' 8 8 = g
  | .bren on => ∃ v : BitVec 32, encode (.bren on) = .command v ∧ v &&& 0xFFFFFEFF#32 = 0x00000010#32 ∧
      v.getLsbD 8 = on
  | .brstep => encode .brstep = .command 0x00000011#32
  | .btnpoll => encode .btnpoll = .command 0x00000020#32
  | .btnconf => encode .btnconf = .command 0x00000021#32
  | .tick => encode .tick = .event 0b001#3
  | .line v => ∃ ev : BitVec 3, encode (.line v) = .event ev ∧ ev &&& 0b011#3 = 0b010#3 ∧ ev.getLsbD 2 = v

theorem nop : Statement .nop := rfl
theorem dlyset : Statement .dlyset := rfl
theorem diff : Statement .diff := rfl
theorem elapsed : Statement .elapsed := rfl
theorem gate (g : BitVec 8) : Statement (.gate g) := ⟨commandWord 0x0A g, rfl, by revert g; decide, by revert g; decide⟩
theorem gateset (g : BitVec 8) : Statement (.gateset g) := ⟨commandWord 0x0B g, rfl, by revert g; decide, by revert g; decide⟩
theorem bren (on : Bool) : Statement (.bren on) := by cases on <;> exact ⟨_, rfl, rfl, rfl⟩
theorem brstep : Statement .brstep := rfl
theorem btnpoll : Statement .btnpoll := rfl
theorem btnconf : Statement .btnconf := rfl
theorem tick : Statement .tick := rfl
theorem line (v : Bool) : Statement (.line v) := by cases v <;> exact ⟨_, rfl, rfl, rfl⟩

end Sys2Proof.Laws.TableRow
end

