-- ==== Sys2Proof/Machine/HostProgram.lean ====
section
/-! DEFINITION. A host program driving the block: the host instructions of 30_encoding.md R90 and R92, the
pseudo-instructions of R91, the debounce phase (44_debounce.md R188), the boot sequence (70_reset_and_hazards.md R243) and
the dispatch loop (60_exceptions.md R222). None of this is state of the block (00_scope.md R5, 10_state.md R31; log 20). -/

namespace Sys2Proof.Machine

/-- A value a host program writes: a constant or one of its locals. -/
inductive HostVal where
  | const (v : Word)
  | loc (x : Nat)
deriving DecidableEq, Repr

/-- The host's instructions (R90, R92). Locals and labels are numbers: a label is the position of its instruction. -/
inductive HostOp where
  /-- `wr off, v`. -/
  | wr (off : Nat) (v : HostVal)
  /-- `rd off -> x`. -/
  | rd (off x : Nat)
  /-- `and x, m -> y`. -/
  | andc (x : Nat) (m : Word) (y : Nat)
  /-- `bnz x, L`: go to L if x ≠ 0. -/
  | bnz (x label : Nat)
  /-- `bne x, k, L`: go to L if x ≠ k. -/
  | bne (x : Nat) (k : Word) (label : Nat)
  /-- `beq x, k, L`: go to L if x = k. -/
  | beq (x : Nat) (k : Word) (label : Nat)
  /-- `jmp L`. -/
  | jmp (label : Nat)
  /-- The model's own: x <- 1 if the fresh sensor reading exceeds the current threshold, else 0. The reading and the
  comparison are external (00_scope.md R4, R222 steps 1 and 2); the host waits until the answer is there (log 20). -/
  | compare (x : Nat)
  /-- `stop`: the host takes no further steps. -/
  | stop
deriving DecidableEq, Repr

/-- The host: its program, the position of its next instruction, its locals, a never-written one reading 0, and what the
external comparison answers of each fresh reading to come, oldest first (log 20). -/
structure HostAgent where
  prog : List HostOp
  pc : Nat
  locals : List (Nat × Word)
  exceeds : List Bool
deriving DecidableEq, Repr

/-- The host and the block it drives. -/
structure System where
  agent : HostAgent
  block : State
deriving DecidableEq, Repr

/-- The value of the local x. -/
def localOf (x : Nat) : List (Nat × Word) → Word
  | [] => 0
  | (y, v) :: rest => if y = x then v else localOf x rest

/-- x <- v in the locals. -/
def setLocal (x : Nat) (v : Word) : List (Nat × Word) → List (Nat × Word)
  | [] => [(x, v)]
  | (y, u) :: rest => if y = x then (x, v) :: rest else (y, u) :: setLocal x v rest

/-- The value of an operand. -/
def hostVal (h : HostAgent) : HostVal → Word
  | .const v => v
  | .loc x => localOf x h.locals

/-- The host's next position, where a branch to `label` is taken or not. -/
def branchTo (taken : Bool) (label : Nat) (h : HostAgent) : HostAgent :=
  { h with pc := if taken then label else h.pc + 1 }

/-- The local x takes the next answer of the external comparison; with none yet the host waits. -/
def takeCompare (x : Nat) (h : HostAgent) : HostAgent :=
  match h.exceeds with
  | [] => h
  | b :: rest => branchTo false 0 { h with locals := setLocal x (if b then 1 else 0) h.locals, exceeds := rest }

/-- One host instruction. An access is one step of the block (60_exceptions.md R216); the others touch no register; `stop`
and a position past the program leave everything as it is. -/
def hostMove (sys : System) : Host.Outcome System Fault Refusal :=
  let h := sys.agent
  match h.prog[h.pc]? with
  | none => .next sys
  | some .stop => .next sys
  | some (.wr off v) =>
    match stepOn (wrInput sys.block.cfg off (hostVal h v)) sys.block with
    | .next t => .next { agent := branchTo false 0 h, block := t }
    | .fault r => .fault r
    | .refused r => .refused r
  | some (.rd off x) =>
    match stepOn (rdInput sys.block.cfg off) sys.block with
    | .next t => .next { agent := branchTo false 0 { h with locals := setLocal x t.readData h.locals }, block := t }
    | .fault r => .fault r
    | .refused r => .refused r
  | some (.andc x m y) =>
    .next { sys with agent := branchTo false 0 { h with locals := setLocal y (localOf x h.locals &&& m) h.locals } }
  | some (.compare x) => .next { sys with agent := takeCompare x h }
  | some (.bnz x label) => .next { sys with agent := branchTo (localOf x h.locals != 0) label h }
  | some (.bne x k label) => .next { sys with agent := branchTo (localOf x h.locals != k) label h }
  | some (.beq x k label) => .next { sys with agent := branchTo (localOf x h.locals == k) label h }
  | some (.jmp label) => .next { sys with agent := branchTo true label h }

/-- A move of the whole system: the host's next instruction, or a step of another agent. -/
inductive Move where
  | agent
  | env (inp : Input)
deriving DecidableEq, Repr

/-- One move; any agent may take the next one (60_exceptions.md R216). DESIGN CHOICE (log 24): a reset of the block leaves
the host where it is, its position and its locals kept; the spec does not say what it does to the host. -/
def systemMove (m : Move) (sys : System) : Host.Outcome System Fault Refusal :=
  match m with
  | .agent => hostMove sys
  | .env inp =>
    match stepOn inp sys.block with
    | .next t => .next { sys with block := t }
    | .fault r => .fault r
    | .refused r => .refused r

/-- The moves one after another, stopping at a refused one. -/
def systemRun : List Move → System → Host.Outcome System Fault Refusal
  | [], sys => .next sys
  | m :: rest, sys =>
    match systemMove m sys with
    | .next t => systemRun rest t
    | .fault r => .fault r
    | .refused r => .refused r

/-- `cmd MNEMONIC [n]` (R90). -/
def cmdOp (i : Instr) : HostOp := .wr 0x08 (.const (wordOf i))

/-- `now -> x` (R91). -/
def nowOps (x : Nat) : List HostOp := [.rd 0x00 x]

/-- `dlyset n` (R91). -/
def dlysetOps (n : HostVal) : List HostOp := [.wr 0x0C n, cmdOp .dlyset]

/-- `wait_delay` standing at position p, with its local d (R91). DESIGN CHOICE (log 25): while HALTED = 1 the wait ends at
its first read, since DELAY then reads its reset value 0 (20_memory.md R60, 60_exceptions.md R214), although
41_tick_delay.md R124 says that it never ends. -/
def waitDelayOps (p d : Nat) : List HostOp := [.rd 0x04 d, .bnz d p]

/-- `delay n` standing at position p (R91, 41_tick_delay.md R123). -/
def delayOps (n : HostVal) (p d : Nat) : List HostOp := dlysetOps n ++ waitDelayOps (p + 2) d

/-- `diff ts -> e` (R91). -/
def diffOps (ts : HostVal) (e : Nat) : List HostOp := [.wr 0x0C ts, cmdOp .diff, .rd 0x14 e]

/-- `elapsed ts, dt -> f` (R91). -/
def elapsedOps (ts dt : HostVal) (f : Nat) : List HostOp := [.wr 0x0C ts, .wr 0x10 dt, cmdOp .elapsed, .rd 0x14 f]

/-- `gate g, thr -> f` (R91). -/
def gateOps (g : BitVec 8) (thr : HostVal) (f : Nat) : List HostOp := [.wr 0x0C thr, cmdOp (.gate g), .rd 0x14 f]

/-- `gateset g, ts` (R91). -/
def gatesetOps (g : BitVec 8) (ts : HostVal) : List HostOp := [.wr 0x0C ts, cmdOp (.gateset g)]

/-- `bren b` (R91). -/
def brenOps (on : Bool) : List HostOp := [cmdOp (.bren on)]

/-- `brstep -> f` (R91). -/
def brstepOps (f : Nat) : List HostOp := [cmdOp .brstep, .rd 0x14 f]

/-- `btnpoll -> r` (R91). -/
def btnpollOps (r : Nat) : List HostOp := [cmdOp .btnpoll, .rd 0x14 r]

/-- `btnconf -> c` (R91). -/
def btnconfOps (x : Nat) : List HostOp := [cmdOp .btnconf, .rd 0x14 x]

/-- `debounce_phase` standing at position p: BTNPOLL, and only after SETTLE the settle delay and BTNCONF (R91,
44_debounce.md R188). Its locals are r, d and x. -/
def debounceOps (settle : Word) (p r d x : Nat) : List HostOp :=
  btnpollOps r ++ [.bne r 1 (p + 9)] ++ delayOps (.const settle) (p + 3) d ++ btnconfOps x

/-- The host's parameters (00_scope.md R7): SETTLE, CADENCE, TELEMETRY_INTERVAL and the startup delays, the last two OPEN. -/
structure HostParams where
  settle : Word := 10
  cadence : Word := 20
  telemetryInterval : Word
  startupDelays : List Word
deriving DecidableEq, Repr

/-- Step 2 standing at position p, 6 instructions: the selector is read, and the alarm is enabled exactly when the fresh
reading exceeds the threshold it selects (60_exceptions.md R222). Locals: b the selector's word, x the comparison. -/
def alarmOps (p b x : Nat) : List HostOp :=
  [.rd 0x28 b, .compare x, .beq x 0 (p + 5)] ++ brenOps true ++ [.jmp (p + 6)] ++ brenOps false

/-- Steps 1 to 5 and 7 of one iteration of the dispatch loop standing at position p, 24 instructions, and the jump back
to p (60_exceptions.md R222). Each iteration asks for a fresh comparison; step 6 is out of scope.
Locals: 0 the selector's word, 1 BRSTEP's result, 2 BTNPOLL's, 3 the waits', 4 BTNCONF's, 5 GATE's, 9 the comparison. -/
def dispatchOps (hp : HostParams) (p : Nat) : List HostOp :=
  alarmOps p 0 9 ++ brstepOps 1 ++ debounceOps hp.settle (p + 8) 2 3 4 ++
    gateOps 0 (.const hp.telemetryInterval) 5 ++ delayOps (.const hp.cadence) (p + 20) 3 ++ [.jmp p]

/-- The startup delays one after another, the first standing at position p (70_reset_and_hazards.md R243 (4)). -/
def startupOps : List Word → Nat → List HostOp
  | [], _ => []
  | n :: rest, p => delayOps (.const n) p 3 ++ startupOps rest (p + 4)

/-- `now` and `gateset g, now` for the slots the host will use (70_reset_and_hazards.md R243 (3)). -/
def gateStartOps : List (BitVec 8) → List HostOp
  | [] => []
  | g :: rest => nowOps 6 ++ gatesetOps g (.loc 6) ++ gateStartOps rest

/-- The whole host program: STATUS.HALT is tested and ends the program at its `stop`; then the gate starts, the startup
delays and the dispatch loop (70_reset_and_hazards.md R243, 60_exceptions.md R222). -/
def bootProgram (hp : HostParams) (gates : List (BitVec 8)) : List HostOp :=
  let start : List HostOp := [.rd 0x18 7, .andc 7 4 8, .beq 8 0 4, .stop]
  let gate := gateStartOps gates
  let delays := startupOps hp.startupDelays (4 + gate.length)
  start ++ gate ++ delays ++ dispatchOps hp (4 + gate.length + delays.length)

end Sys2Proof.Machine
end

