-- ==== Sys2Proof/Tests/Slice0.lean ====
section
/-! SUPPORT. Tests: words written out from spec/30_encoding.md, the vectors of spec/95_test_vectors.md (their ids in the
comments), and a witness for every statement that has hypotheses. -/

namespace Sys2Proof.Tests

open Sys2Proof.Machine

/-- The parameters of 95_test_vectors.md ("Conventions"). -/
def cfg : Config where
  w := 32
  nGates := 4
  steps := 50
  period := 1000
  breathInterval := 10
  debounceWindow := 200
  selReset := 1
  base := 0x80
  fTick := 1000

/-- The same with W = 8. -/
def cfg8 : Config := { cfg with w := 8 }

/-- The start state of every vector. -/
def s0 : State := State.resetOf cfg true

/-- The same with W = 8. -/
def s8 : State := State.resetOf cfg8 true

/-- One view of the state a step answers, if it answers one. -/
def view {α : Type} (f : State → α) : Host.Outcome State Fault Refusal → Option α
  | .next t => some (f t)
  | .fault _ => none
  | .refused _ => none

/-- The host writes the command word v. -/
def cmd (v : Word) (s : State) : Host.Outcome State Fault Refusal := stepOn (cmdInput s.cfg v) s

/-! ### Decoding (30_encoding.md R80, R83, R88, R93): RSV, IDX, OP written out -/

theorem test_decode_nop : decodeCommand 0b0000000000000000_00000000_00000000#32 = .instr .nop := by decide
theorem test_decode_dlyset : decodeCommand 0b0000000000000000_00000000_00000001#32 = .instr .dlyset := by decide
theorem test_decode_diff : decodeCommand 0b0000000000000000_00000000_00001000#32 = .instr .diff := by decide
theorem test_decode_elapsed : decodeCommand 0b0000000000000000_00000000_00001001#32 = .instr .elapsed := by decide
theorem test_decode_gate : decodeCommand 0b0000000000000000_00000011_00001010#32 = .instr (.gate 3) := by decide
theorem test_decode_gateset : decodeCommand 0b0000000000000000_00000001_00001011#32 = .instr (.gateset 1) := by decide
theorem test_decode_bren : decodeCommand 0b0000000000000000_00000001_00010000#32 = .instr (.bren true) ∧
    decodeCommand 0b0000000000000000_00000000_00010000#32 = .instr (.bren false) := by decide
theorem test_decode_brstep : decodeCommand 0b0000000000000000_00000000_00010001#32 = .instr .brstep := by decide
theorem test_decode_btnpoll : decodeCommand 0b0000000000000000_00000000_00100000#32 = .instr .btnpoll := by decide
theorem test_decode_btnconf : decodeCommand 0b0000000000000000_00000000_00100001#32 = .instr .btnconf := by decide
theorem test_decode_tick : decodeEvent 0b001#3 = .instr .tick := by decide
theorem test_decode_line : decodeEvent 0b010#3 = .instr (.line false) ∧ decodeEvent 0b110#3 = .instr (.line true) := by
  decide
theorem test_decode_illegal : decodeCommand 0x00010000#32 = .illegal .reservedBits ∧
    decodeCommand 0x000000FF#32 = .illegal .unassignedOpcode ∧ decodeCommand 0x00000101#32 = .illegal .nonzeroIndex ∧
    decodeCommand 0x00000210#32 = .illegal .brenIndex ∧ decodeCommand 0x0001040A#32 = .illegal .reservedBits := by decide
theorem test_decode_no_event : ∀ ev ∈ [0b000#3, 0b011#3, 0b100#3, 0b101#3, 0b111#3],
    decodeEvent ev = .illegal .noSuchEvent := by decide

/-! ### Well-formedness (30_encoding.md R81) -/

theorem test_wf_gate : (Instr.gate 3).wf cfg = true ∧ (Instr.gate 4).wf cfg = false := by decide
theorem test_wf_gateset : (Instr.gateset 3).wf cfg = true ∧ (Instr.gateset 255).wf cfg = false := by decide

/-! ### The table's words, as the host asks for them -/

theorem test_table_word : decodeTableWord 32 0x30A = some (.gate 3) ∧ decodeTableWord 8 0x1 = some .tick ∧
    decodeTableWord 3 0x6 = some (.line true) ∧ decodeTableWord 8 0x0 = none ∧ decodeTableWord 32 0x2 = none := by decide
theorem test_fetch_word : view State.delay (step ({ s0 with arga := 10 }.withFetchWord 32 0x1)) = some 10 ∧
    view State.tick (step (s0.withFetchWord 8 0x1)) = some 1 := by decide

/-! ### Register access -/

/-- A4. -/
theorem test_read_cmd : view (fun t => (t.readData, t.err, statusWord t)) (stepOn (rdInput cfg 0x08) s0) =
    some (0, true, 0x00000301) := by decide
/-- A5. -/
theorem test_write_readonly : view (fun t => (t.tick, t.ecause)) (stepOn (wrInput cfg 0x00 5) { s0 with tick := 9 }) =
    some (9, 3) := by decide
/-- A8. -/
theorem test_halfword_write : view (fun t => (t.arga, t.ecause))
    (stepOn (.write (0x80 + 0x0C) 2 0x2222) { s0 with arga := 0x11111111 }) = some (0x11111111, 3) := by decide
/-- A9. -/
theorem test_misaligned_read : view (fun t => (t.readData, t.ecause)) (stepOn (.read 0x82 4) s0) = some (0, 3) := by decide
/-- A11 and A12. -/
theorem test_gatelast_read : view State.ecause (stepOn (rdInput cfg 0x50) s0) = some 3 ∧
    view (fun t => (t.readData, t.err)) (stepOn (rdInput { cfg with nGates := 16 } 0x7C)
      { State.resetOf { cfg with nGates := 16 } true with gateLast := List.replicate 15 0 ++ [7] }) = some (7, false) := by
  decide
/-- A13. -/
theorem test_status_word : view State.readData
    (stepOn (rdInput cfg 0x18) { s0 with delay := 5, err := true, ecause := 2 }) = some 0x00000203 := by decide
/-- A14. -/
theorem test_brstat_word : view State.readData
    (stepOn (rdInput cfg 0x1C) { s0 with en := true, dir := .falling, stepIdx := 50 }) = some 0x00320003 := by decide
/-- A15. -/
theorem test_btnstat_word : view State.readData
    (stepOn (rdInput cfg 0x28) { s0 with pending := true, confirmed := true, level := false, sel := 2 }) =
    some 0x00000023 := by decide

/-! ### Instructions -/

/-- X1. -/
theorem test_nop : view (fun t => (t.result, t.err)) (cmd 0x0 { s0 with result := 7 }) = some (7, false) := by decide
/-- X5. -/
theorem test_illegal_dlyset : view (fun t => (t.ecause, t.delay)) (cmd 0x101 { s0 with arga := 9 }) = some (1, 0) := by
  decide
/-- X10. -/
theorem test_first_cause_kept : view statusWord (cmd 0x40A { s0 with err := true, ecause := 1 }) = some 0x00000101 := by
  decide
/-- T1 and T3. -/
theorem test_tick : view (fun t => (t.tick, t.delay)) (stepOn tickInput { s0 with tick := 0xFFFFFFFF }) = some (0, 0) ∧
    view (fun t => (t.tick, t.delay)) (stepOn tickInput { s0 with tick := 0xFFFF, delay := 2 }) = some (0x10000, 1) := by
  decide
/-- T7. -/
theorem test_dlyset : view State.delay (cmd 0x1 { s8 with arga := 0x12345678 }) = some 0x78 := by decide
/-- I1 and I4. -/
theorem test_diff : view State.result (cmd 0x8 { s0 with tick := 5, arga := 0xFFFFFFFA }) = some 0xB ∧
    view State.result (cmd 0x8 { s8 with tick := 5, arga := 0x1FA }) = some 0xB := by decide
/-- E10. -/
theorem test_elapsed : view State.result (cmd 0x9 { s0 with tick := 0xFFFFFFFB, arga := 0xFFFFFFFA, argb := 11 }) =
    some 0 := by decide
/-- E5 and E6. -/
theorem test_elapsed_boundary :
    view State.result (cmd 0x9 { s0 with tick := 5, arga := 0xFFFFFFFA, argb := 11 }) = some 1 ∧
    view State.result (cmd 0x9 { s0 with tick := 5, arga := 0xFFFFFFFA, argb := 12 }) = some 0 := by decide
/-- G2 and G3. -/
theorem test_gate :
    view (fun t => (t.result, t.gateLast)) (cmd 0xA { s8 with gateLast := [250, 0, 0, 0], tick := 5, arga := 12 }) =
      some (0, [250, 0, 0, 0]) ∧
    view (fun t => (t.result, t.gateLast)) (cmd 0xA { s8 with gateLast := [250, 0, 0, 0], tick := 5, arga := 11 }) =
      some (1, [5, 0, 0, 0]) := by decide
/-- G7. -/
theorem test_gate_index : view (fun t => (t.ecause, t.result)) (cmd 0x40A { s0 with result := 1 }) = some (2, 1) := by
  decide
/-- S1 and X9. -/
theorem test_gateset : view State.gateLast (cmd 0x20B { s8 with arga := 0x1FF }) = some [0, 0, 0xFF, 0] ∧
    view State.ecause (cmd 0xFF0B s0) = some 2 := by decide
/-- B13. -/
theorem test_bren_on : view (fun t => (t.brLast, brstatWord t)) (cmd 0x110 { s0 with brLast := 37 }) = some (37, 1) := by
  decide
/-- B14 and B15. -/
theorem test_bren_enabled :
    view (fun t => (t.duty, brstatWord t)) (cmd 0x110 { s0 with en := true, dir := .falling, stepIdx := 37, duty := 740 }) =
      some (740, 0x00250003) ∧
    view (fun t => (t.duty, brstatWord t)) (cmd 0x10 { s0 with en := true, dir := .falling, stepIdx := 37, duty := 740 }) =
      some (0, 0) := by decide
/-- B4, k = 50 (B20). -/
theorem test_brstep_peak : view (fun t => (t.result, t.duty, brstatWord t))
    (cmd 0x11 { s0 with en := true, stepIdx := 49, tick := 10 }) = some (1, 980, 0x00320003) := by decide
/-- B4, k = 51, and B12. -/
theorem test_brstep_fall : view (fun t => (t.duty, brstatWord t))
    (cmd 0x11 { s0 with en := true, dir := .falling, stepIdx := 50, tick := 10 }) = some (980, 0x00310003) ∧
    view (fun t => (t.result, t.brLast)) (cmd 0x11 { s8 with en := true, brLast := 0xFA, tick := 4 }) = some (1, 4) := by
  decide
/-- The command table of 2.6, row 1, 1, 1, and the unreachable row 0, 1, 0. -/
theorem test_btnpoll :
    view (fun t => (t.result, t.pending, t.confirmed)) (cmd 0x20 { s0 with pending := true, confirmed := true }) =
      some (2, false, false) ∧
    view (fun t => (t.result, t.pending, t.confirmed)) (cmd 0x20 { s0 with confirmed := true, level := false }) =
      some (3, false, true) := by decide
/-- The command table of 2.6, rows 1, 0, 0 (with SEL = 2) and 1, 0, 1. -/
theorem test_btnconf :
    view (fun t => (t.result, t.pending, t.confirmed, t.sel)) (cmd 0x21 { s0 with pending := true, level := false, sel := 2 }) =
      some (1, true, true, 0) ∧
    view (fun t => (t.result, t.pending, t.confirmed, t.sel)) (cmd 0x21 { s0 with pending := true }) =
      some (0, false, false, 1) := by decide
/-- D2 and D3. -/
theorem test_line :
    view (fun t => (t.level, t.pending, t.btnLast)) (stepOn (lineInput false) { s0 with tick := 200 }) =
      some (false, false, 0) ∧
    view (fun t => (t.level, t.pending, t.btnLast)) (stepOn (lineInput false) { s0 with tick := 201 }) =
      some (false, true, 201) := by decide
/-- D5 and D8. -/
theorem test_line_wrap :
    view (fun t => (t.pending, t.btnLast)) (stepOn (lineInput false) { s0 with btnLast := 0xFFFFFF00, tick := 0x10 }) =
      some (true, 0x10) ∧
    view (fun t => (t.level, t.pending)) (stepOn (lineInput false) { s0 with level := false, tick := 1000 }) =
      some (false, false) := by decide

/-! ### Halt, reset, the host's program -/

/-- H1, H2 and H5. -/
theorem test_halted : statusWord (State.resetOf cfg false) = 0x00000004 ∧
    view State.arga (stepOn (wrInput cfg 0x0C 5) (State.resetOf cfg false)) = some 0 ∧
    view State.err (stepOn (rdInput cfg 0x08) (State.resetOf cfg false)) = some false := by decide
/-- H7. -/
theorem test_reset : stepOn (.reset true)
    { s0 with err := true, ecause := 3, tick := 77, sel := 0, en := true, stepIdx := 4, pending := true, level := false } =
    .next s0 := by rfl
/-- R91: the word and the operand `dlyset 10` writes, and `wait_delay`'s loop at position 2. -/
theorem test_delay_ops : delayOps (.const 10) 0 3 =
    [.wr 0x0C (.const 10), .wr 0x08 (.const 0x00000001), .rd 0x04 3, .bnz 3 2] := by decide
/-- P3: the listing of `debounce_phase`, at position 0 with END = 9. -/
theorem test_debounce_ops : debounceOps 10 0 2 3 4 =
    [.wr 0x08 (.const 0x00000020), .rd 0x14 2, .bne 2 1 9, .wr 0x0C (.const 10), .wr 0x08 (.const 0x00000001), .rd 0x04 3,
     .bnz 3 5, .wr 0x08 (.const 0x00000021), .rd 0x14 4] := by decide
/-- R222 step 2 at position 0: the selector, the fresh comparison, BREN 1 or BREN 0, and on at position 6. -/
theorem test_alarm_ops : alarmOps 0 0 9 =
    [.rd 0x28 0, .compare 9, .beq 9 0 5, .wr 0x08 (.const 0x00000110), .jmp 6, .wr 0x08 (.const 0x00000010)] := by decide
/-- P6: the branch out of the debounce phase, the telemetry gate it goes to, and the jump back. -/
theorem test_dispatch_ops :
    let ops := dispatchOps { telemetryInterval := 500, startupDelays := [] } 0
    ops[10]? = some (.bne 2 1 17) ∧ ops[17]? = some (.wr 0x0C (.const 500)) ∧ ops[20]? = some (.wr 0x0C (.const 20)) ∧
      ops[23]? = some (.bnz 3 22) ∧ ops[24]? = some (.jmp 0) ∧ ops.length = 25 := by decide
/-- W8: a reading above the threshold enables the generator, a later one below it disables it. -/
theorem test_alarm_follows_reading :
    (match systemRun (List.replicate 5 .agent)
        { agent := { prog := alarmOps 0 0 9, pc := 0, locals := [], exceeds := [true] }, block := s0 } with
     | .next sys => (sys.agent.pc, sys.block.en)
     | .fault _ => (99, false)
     | .refused _ => (99, false)) = (6, true) ∧
    (match systemRun (List.replicate 4 .agent)
        { agent := { prog := alarmOps 0 0 9, pc := 0, locals := [], exceeds := [false] }, block := { s0 with en := true } } with
     | .next sys => (sys.agent.pc, sys.block.en)
     | .fault _ => (99, true)
     | .refused _ => (99, true)) = (6, false) := by decide
/-- Log 25: while HALTED = 1 `delay 10` ends at its first read of DELAY. -/
theorem test_halted_delay :
    (match systemRun (List.replicate 4 .agent)
        { agent := { prog := delayOps (.const 10) 0 3, pc := 0, locals := [], exceeds := [] },
          block := State.resetOf cfg false } with
     | .next sys => sys.agent.pc
     | .fault _ => 99
     | .refused _ => 99) = 4 := by decide
/-- R243 (2): with HALT = 1 the boot program stops at its `stop`, after three host instructions. -/
theorem test_boot_halted :
    (match systemRun (List.replicate 5 .agent)
        { agent := ⟨bootProgram { telemetryInterval := 500, startupDelays := [] } [0], 0, [], []⟩,
          block := State.resetOf cfg false } with
     | .next sys => sys.agent.pc
     | .fault _ => 99
     | .refused _ => 99) = 3 := by decide

/-! ### Witnesses: for each statement with hypotheses, a state and operands that meet them, clause by clause -/

/-- A run state with the breathing generator on, a press pending and a gate in use. -/
def busy : State := { s0 with tick := 300, en := true, stepIdx := 1, pending := true, level := false, btnLast := 300 }

theorem witness_legal : cfg.Legal ∧ cfg8.Legal := by decide

theorem witness_inv : busy.Inv := by constructor <;> first | decide | nofun

theorem witness_EncodeOfDecode : decode (.command 0x30A) = .instr (.gate 3) ∧ decode (.event 0b110) = .instr (.line true) := by
  decide

theorem witness_SpecWordsDecode : s0.halted = false ∧ s0.cfg.nGates = 4 := by decide

/-- A word for each check of the statement: RSV, OP, GATE out of and in range, BREN out of and in range, IDX out of and in
range. -/
theorem witness_CommandWordChecks : s0.halted = false ∧
    (0x00010000#32).extractLsb' 16 16 ≠ 0#16 ∧ (0x00000002#32).extractLsb' 0 8 ∉ assignedOpcodes ∧
    s0.cfg.nGates ≤ ((0x0000040A#32).extractLsb' 8 8).toNat ∧ ((0x0000030B#32).extractLsb' 8 8).toNat < s0.cfg.nGates ∧
    ((0x00000210#32).extractLsb' 8 8).extractLsb' 1 7 ≠ 0#7 ∧ ((0x00000110#32).extractLsb' 8 8).extractLsb' 1 7 = 0#7 ∧
    (0x00000101#32).extractLsb' 8 8 ≠ 0#8 ∧ (0x00000021#32).extractLsb' 8 8 = 0#8 := by decide

theorem witness_StepRunsDecodedInstruction :
    ({ s0 with inputs := [cmdInput cfg 0x30A] }.halted = false ∧ decode (.command 0x30A) = .instr (.gate 3)) ∧
    ({ s0 with inputs := [tickInput] }.inputs = .event 0b001 :: [] ∧ decode (.event 0b001) = .instr .tick) := by decide

theorem witness_TableWordIsRunNext : s0.halted = false ∧ decodeTableWord 32 0x30A = some (.gate 3) ∧
    decodeTableWord 8 0x6 = some (.line true) := by decide

/-- The words of the command statements: the command's own, and one of the same opcode that is illegal. -/
theorem witness_command_words : s0.halted = false ∧ ∀ op ∈ [0x00#8, 0x01#8, 0x08#8, 0x09#8, 0x11#8, 0x20#8, 0x21#8],
    ((commandWord op 0).extractLsb' 0 8 = op ∧ (commandWord op 0).extractLsb' 8 24 = 0#24) ∧
    ((commandWord op 1).extractLsb' 0 8 = op ∧ (commandWord op 1).extractLsb' 8 24 ≠ 0#24) := by decide

theorem witness_TickEvent : { s0 with delay := 1 }.halted = false ∧
    view dlyBusy (stepOn tickInput { s0 with delay := 1 }) = some false := by decide

theorem witness_DlysetCommand : s8.halted = false ∧ exec .dlyset { s8 with arga := 0x100 } = .next { s8 with arga := 0x100 } ∧
    view dlyBusy (exec .dlyset { s8 with arga := 0xFF }) = some true := ⟨by decide, by rfl, by decide⟩

/-- ts = TICK, and ts = TICK + 1 across the wrap. -/
theorem witness_DiffCommand : s8.halted = false ∧ s8.cfg.Legal ∧ { s8 with tick := 255 }.tick < 2 ^ s8.cfg.w ∧
    view State.result (exec .diff { s8 with tick := 255, arga := 255 }) = some 0 ∧
    view State.result (exec .diff { s8 with tick := 255, arga := 0 }) = some 255 := by decide

/-- delta = 0, delta = 2^W, and ts = TICK. -/
theorem witness_ElapsedCommand : s8.halted = false ∧ { s8 with argb := 0 }.argb = 0 ∧
    2 ^ s8.cfg.w ≤ { s8 with argb := 0x100 }.argb.toNat ∧ s8.arga.toNat % 2 ^ s8.cfg.w = s8.tick := by decide

/-- TICK < ts with the interval reached and its end before the wrap, and ts ≤ TICK with its end past the wrap (E10). -/
theorem witness_ElapsedIsNoNaiveForm :
    ({ s8 with tick := 5, arga := 250, argb := 3 }.Inv ∧ 5 < 250 % 2 ^ 8 ∧ 3 ≤ 5 + 2 ^ 8 - 250 ∧ 250 + 3 < 2 ^ 8) ∧
    ({ s8 with tick := 0xFB, arga := 0xFA, argb := 11 }.Inv ∧ 0xFA % 2 ^ 8 ≤ 0xFB ∧ 2 ^ 8 ≤ 0xFA + 11 ∧
      0xFA + 11 ≤ 0xFB + 2 ^ 8) :=
  ⟨⟨by constructor <;> first | decide | nofun, by decide⟩, by constructor <;> first | decide | nofun, by decide⟩

/-- The last slot and the first that is none; another slot; thr = 0 and thr = 2^W; and a legal and an illegal word. -/
theorem witness_GateCommand : s8.halted = false ∧ (3#8).toNat < s8.cfg.nGates ∧ s8.cfg.nGates ≤ (4#8).toNat ∧
    2 ≠ (3#8).toNat ∧ { s8 with arga := 0 }.arga = 0 ∧ 2 ^ s8.cfg.w ≤ { s8 with arga := 0x100 }.arga.toNat ∧
    (0x0000030A#32).extractLsb' 0 8 = 0x0A#8 ∧ (0x0000030A#32).extractLsb' 8 8 = 3#8 ∧
    (0x0001030A#32).extractLsb' 16 16 ≠ 0#16 := by decide

theorem witness_GatesetCommand : s8.halted = false ∧ (3#8).toNat < s8.cfg.nGates ∧ s8.cfg.nGates ≤ (4#8).toNat ∧
    (0x0000030B#32).extractLsb' 0 8 = 0x0B#8 ∧ (0x0000030B#32).extractLsb' 8 8 = 3#8 ∧
    (0x0001030B#32).extractLsb' 16 16 ≠ 0#16 := by decide

theorem witness_BrenCommand : s0.halted = false ∧
    ((0x00000110#32).extractLsb' 0 8 = 0x10#8 ∧ (0x00000110#32).getLsbD 8 = true ∧
      (0x00000110#32).extractLsb' 9 23 = 0#23) ∧
    ((0x00000210#32).getLsbD 8 = false ∧ (0x00000210#32).extractLsb' 9 23 ≠ 0#23) := by decide

/-- Every case of BRSTEP: not due, disabled, rising and at its last step, falling and at its last step. -/
theorem witness_BrstepCommand : busy.halted = false ∧
    wrapDiff 32 { busy with brLast := 291 }.tick 291 < cfg.breathInterval ∧
    view State.duty (exec .brstep { busy with en := false, duty := 5 }) = some 0 ∧
    view State.duty (exec .brstep { busy with stepIdx := 49 }) = some 980 ∧
    view State.dir (exec .brstep { busy with dir := .falling }) = some .rising := by decide

theorem witness_BtnpollBtnconf : busy.halted = false ∧ s0.halted = false := by decide

theorem witness_MeaningsFrame : view State.arga (exec .diff busy) = some 0 ∧ writesResult .tick = false ∧
    (Instr.gate 3).wf busy.cfg = true := by decide

/-- The first and the last gate slot, and a step that is no read. -/
theorem witness_LegalReads : cfg.Legal ∧ 0 < cfg.nGates ∧ 3 < cfg.nGates ∧
    view State.readData (stepOn tickInput { s0 with readData := 7 }) = some 7 := by decide

/-- An offset past the last slot, one below and one past the window, a misaligned one, a byte, and for a write a register
that can only be read. -/
theorem witness_IllegalAccess : cfg.Legal ∧ s0.halted = false ∧ ¬ ReadLegal cfg (0x80 + 0x50) 4 ∧
    ¬ ReadLegal cfg (0x80 + 0x80) 4 ∧ ¬ ReadLegal cfg 0x7C 4 ∧ ¬ ReadLegal cfg 0x82 4 ∧ ¬ ReadLegal cfg 0x80 1 ∧
    ¬ ReadLegal cfg (0x80 + 0x08) 4 ∧ ¬ WriteLegal cfg (0x80 + 0x14) 4 ∧ ¬ WriteLegal cfg (0x80 + 0x0C) 2 := by
  refine ⟨by decide, by decide, ?_, ?_, ?_, ?_, ?_, ?_, ?_, ?_⟩ <;>
    (rintro ⟨h4, off, ho, hm⟩; simp [cfg] at *; try omega)

/-- The legal accesses at the edges: the first and the last readable register, the three writable ones. -/
theorem witness_legal_access : ReadLegal cfg 0x80 4 ∧ ReadLegal cfg (0x80 + 0x4C) 4 ∧ WriteLegal cfg (0x80 + 0x08) 4 ∧
    WriteLegal cfg (0x80 + 0x10) 4 := by
  refine ⟨⟨rfl, 0, rfl, .inl (by decide)⟩, ⟨rfl, 0x4C, rfl, .inr ⟨3, by decide, rfl⟩⟩, ⟨rfl, 8, rfl, by decide⟩,
    ⟨rfl, 0x10, rfl, by decide⟩⟩

theorem witness_OperandWrites : cfg.Legal ∧ s0.halted = false := by decide

theorem witness_WritesReachNoOtherRegister : Input.write 0x80 4 5 ≠ cmdInput s0.cfg 5 ∧
    Input.write 0x88 2 5 ≠ cmdInput s0.cfg 5 := by decide

theorem witness_HaltedChangesNothing : (State.resetOf cfg false).halted = true ∧ namesEvent 0b001 = true ∧
    namesEvent 0b110 = true ∧ cfg.Legal ∧
    view State.halted (stepOn (.reset true) (State.resetOf cfg false)) = some false := by decide

theorem witness_OperandsSeenByNextCommand : s0.halted = false ∧ encode .elapsed = .command 0x9 := by decide

theorem witness_BaseIsNeutral : view State.arga (stepOn (wrInput cfg 0x0C 5) s0) = some 5 := by decide

/-- One step for each cause. -/
theorem witness_FirstErrorCause : cfg.Legal ∧ s0.err = false ∧ s0.ecause = 0 ∧
    view (fun t => (t.err, t.ecause)) (cmd 0x2 s0) = some (true, 1) ∧
    view (fun t => (t.err, t.ecause)) (cmd 0x40A s0) = some (true, 2) ∧
    view (fun t => (t.err, t.ecause)) (stepOn (rdInput cfg 0x30) s0) = some (true, 3) ∧
    view (fun t => (t.err, t.ecause)) (stepOn (wrInput cfg 0x14 0) s0) = some (true, 3) := by decide

/-- A run of agent steps from a state with an error. -/
theorem witness_ErrorsAreSticky : (∀ inp ∈ [tickInput, cmdInput cfg 0x40A, rdInput cfg 0x30], inp.agentStep = true) ∧
    view State.ecause (runOn [tickInput, cmdInput cfg 0x40A, rdInput cfg 0x30] { s0 with err := true, ecause := 1 }) =
      some 1 := by decide

theorem witness_ErrorsDoNotStopTheBlock : cmdInput cfg 0x1 ≠ rdInput cfg 0x18 ∧
    view State.delay (cmd 0x1 { s0 with arga := 4 }) = some 4 := by decide

theorem witness_InvariantKeptByEveryStep : busy.Inv ∧ view State.tick (step { busy with inputs := [tickInput] }) = some 301 :=
  ⟨witness_inv, by decide⟩

theorem witness_SingleWriterPerField : (lineInput false).agentStep = true ∧ (cmdInput cfg 0x1).agentStep = true ∧
    tickInput.agentStep = true ∧ view State.tick (stepOn tickInput s0) = some 1 ∧
    view State.pending (stepOn (lineInput false) { s0 with tick := 300 }) = some true ∧
    (rdInput cfg 0x30).agentStep = true ∧ view State.err (stepOn (rdInput cfg 0x30) s0) = some true ∧
    (∀ ev, cmdInput cfg 0x21 ≠ .event ev) ∧ view State.pending (cmd 0x21 { s0 with pending := true }) = some false := by
  decide

/-- k = 2^W, for W = 1. -/
theorem witness_TicksInARow : s0.halted = false ∧ s0.tick < 2 ^ s0.cfg.w ∧
    2 = 2 ^ (State.resetOf { cfg with w := 1, breathInterval := 0, debounceWindow := 0 } true).cfg.w := by decide

/-- A budget of 2, and runs of one, two and three ticks with a host read between. -/
theorem witness_DelayEndsAtNthTick : cfg.Legal ∧ { s0 with arga := 2 }.halted = false ∧
    2 = { s0 with arga := 2 }.arga.toNat % 2 ^ s0.cfg.w ∧
    ∀ inp ∈ [tickInput, rdInput cfg 0x04, tickInput, tickInput], inp.agentStep = true ∧ inp ≠ cmdInput cfg 0x01 := by
  decide

theorem witness_ElapsedCountsTicks : { s8 with tick := 255 }.halted = false ∧ { s8 with tick := 255 }.tick < 2 ^ s8.cfg.w ∧
    (∀ inp ∈ [tickInput, lineInput false, cmdInput cfg 0x8], inp.agentStep = true) ∧
    tickCount [tickInput, lineInput false, cmdInput cfg 0x8] < 2 ^ s8.cfg.w := by decide

/-- A gate that has just fired with thr = 2, polled again after a read of RESULT and a LINE event, then after one tick as P4
does it; and what may follow the second tick. -/
theorem witness_GateFiresOncePerThreshold : { busy with arga := 2 }.Inv ∧ (1#8).toNat < busy.cfg.nGates ∧
    1 ≤ { busy with arga := 2 }.arga.toNat ∧
    exec (.gate 1) { busy with arga := 2 } = .next { busy with arga := 2, result := 1, gateLast := [0, 300, 0, 0] } ∧
    (∀ inp ∈ [rdInput cfg 0x14, lineInput true], inp.agentStep = true ∧ inp ≠ tickInput ∧
      inp ≠ cmdInput cfg (wordOf (.gateset 1))) ∧
    { busy with arga := 2 }.arga.toNat < 2 ^ busy.cfg.w ∧
    (∀ inp ∈ [rdInput cfg 0x14, wrInput cfg 0x0C 2, cmdInput cfg 0x10A, tickInput], inp.agentStep = true ∧
      inp ≠ cmdInput cfg (wordOf (.gateset 1))) ∧
    stepsWhere (otherThrPoll 1 2) [rdInput cfg 0x14, wrInput cfg 0x0C 2, cmdInput cfg 0x10A, tickInput]
      { busy with arga := 2, result := 1, gateLast := [0, 300, 0, 0] } = 0 ∧
    tickCount [rdInput cfg 0x14, wrInput cfg 0x0C 2, cmdInput cfg 0x10A, tickInput] + 1 = 2 ∧
    (∀ inp ∈ [rdInput cfg 0x00], inp.agentStep = true ∧ inp ≠ tickInput ∧ inp ≠ cmdInput cfg (wordOf (.gate 1)) ∧
      inp ≠ cmdInput cfg (wordOf (.gateset 1))) :=
  ⟨by constructor <;> first | decide | nofun, by decide, by decide, by rfl, by decide⟩

theorem witness_ResultKeptUntilNextWriter : (∀ inp ∈ [tickInput, cmdInput cfg 0x1], inp.agentStep = true) ∧
    (∀ inp ∈ [tickInput, cmdInput cfg 0x1], ∀ i, writesResult i = true → inp ≠ cmdInput cfg (wordOf i)) ∧
    view State.result (runOn [tickInput, cmdInput cfg 0x1] { s0 with result := 9 }) = some 9 := by
  refine ⟨by decide, ?_, by decide⟩
  intro inp hi i hw
  cases i with
  | gate g => revert inp g; decide
  | _ => first | (revert inp; decide) | cases hw

theorem witness_DutyFunction : cfg.Legal ∧ cfg.steps ≤ cfg.steps ∧ 0 ≤ cfg.steps := by decide

/-- From the state BREN 1 leaves: no due step, and one due step; and places in the rising and the falling half. -/
theorem witness_BreathingWaveform : cfg.Legal ∧ { s0 with en := true }.halted = false ∧
    (∀ inp ∈ [tickInput, cmdInput cfg 0x11, cmdInput cfg 0x110], inp.agentStep = true ∧ inp ≠ cmdInput cfg 0x10) ∧
    dueSteps [tickInput, cmdInput cfg 0x11, cmdInput cfg 0x110] { s0 with en := true } = 0 ∧
    dueSteps [tickInput, cmdInput cfg 0x11, cmdInput cfg 0x110] { s0 with en := true, tick := 9 } = 1 ∧
    (1 ≤ 50 ∧ 50 ≤ cfg.steps) ∧ (cfg.steps < 51 ∧ 51 ≤ 100 ∧ 100 ≤ 2 * cfg.steps) := by decide

theorem witness_WaveformRestartsAndIsDeterministic : s0.halted = false ∧
    sameWave s0 { s0 with tick := 5 } ∧
    (cfg.breathInterval ≤ wrapDiff 32 s0.tick s0.brLast ↔ cfg.breathInterval ≤ wrapDiff 32 5 s0.brLast) ∧
    ((lineInput false).agentStep = true ∧ lineInput false ≠ cmdInput cfg 0x10 ∧ lineInput false ≠ cmdInput cfg 0x110 ∧
      dueStep (lineInput false) busy = false) ∧ dueStep (cmdInput cfg 0x11) { busy with brLast := 291 } = false :=
  ⟨by decide, ⟨rfl, rfl, rfl, rfl⟩, by decide⟩

theorem witness_DutyOutput : (cmdInput cfg 0x11).agentStep = true ∧
    view (fun t => decide (dutyOut t ≠ dutyOut busy)) (cmd 0x11 busy) = some true := by decide

theorem witness_SelectorAdvancesOnConfirmation : (cmdInput cfg 0x21).agentStep = true ∧
    view State.sel (cmd 0x21 busy) = some 2 ∧ (2#2).toNat < 3 := by decide

/-- A step for every row of the statement. -/
theorem witness_ButtonEventTransitions : busy.halted = false ∧
    view (fun t => (t.pending, t.confirmed)) (stepOn (lineInput false) { s0 with tick := 300 }) = some (true, false) ∧
    view (fun t => (t.pending, t.confirmed)) (cmd 0x20 { s0 with confirmed := true }) = some (false, false) ∧
    view (fun t => (t.pending, t.confirmed)) (cmd 0x21 { s0 with pending := true }) = some (false, false) ∧
    view (fun t => (t.pending, t.confirmed)) (cmd 0x21 busy) = some (true, true) := by decide

/-- A press that is polled and confirmed twice, with a second falling edge between. -/
theorem witness_HeldPressAdvancesOnce : busy.halted = false ∧ busy.pending = true ∧ busy.confirmed = false ∧
    busy.level = false ∧
    (∀ inp ∈ [cmdInput cfg 0x20, cmdInput cfg 0x21, lineInput false, cmdInput cfg 0x21],
      inp.agentStep = true ∧ inp ≠ lineInput true) ∧
    cmdInput cfg 0x21 ∈ [cmdInput cfg 0x20, cmdInput cfg 0x21] ∧ cmdInput cfg 0x21 ∉ [cmdInput cfg 0x20] := by decide

/-- A window of one tick, used to its end. -/
theorem witness_NoSecondEdgeInsideTheWindow :
    let c := { cfg with debounceWindow := 1 }
    c.Legal ∧ { State.resetOf c true with tick := 7, btnLast := 7 }.halted = false ∧ 7 < 2 ^ c.w ∧
      (∀ inp ∈ [lineInput true, tickInput], inp.agentStep = true) ∧
      tickCount [lineInput true, tickInput] ≤ c.debounceWindow := by decide

/-- With a BRSTEP and a GATE 3 polled before they are due. -/
theorem witness_StartUpWindows :
    let ins := [tickInput, lineInput false, wrInput cfg 0x0C 2, cmdInput cfg 0x11, cmdInput cfg 0x30A]
    cfg.Legal ∧ (∀ inp ∈ ins, inp.agentStep = true) ∧ tickCount ins < 2 ^ cfg.w ∧ tickCount ins ≤ cfg.debounceWindow ∧
      dueSteps ins s0 = 0 ∧ (3#8).toNat < cfg.nGates ∧ stepsWhere (firingPoll 3) ins s0 = 0 ∧
      cmdInput cfg (wordOf (.gateset 3)) ∉ ins := by decide

/-- The block after n ticks from reset with DELAY = 1. -/
def ticked (n : Nat) : State := { s0 with tick := n % 2 ^ 32, delay := 1 - n }

theorem ticked_run : InfiniteRun (fun _ => tickInput) ticked := by
  intro n
  have h : stepOn tickInput (ticked n) = .next { ticked n with
      tick := (n % 2 ^ 32 + 1) % 2 ^ 32, delay := if 1 - n ≠ 0 then 1 - n - 1 else 1 - n } := rfl
  have hd : (if 1 - n ≠ 0 then 1 - n - 1 else 1 - n) = 1 - (n + 1) := by split <;> omega
  rw [h, hd, Nat.mod_add_mod]
  rfl

theorem reads_run : InfiniteRun (fun _ => rdInput cfg 0x00) (fun _ => s0) := fun _ =>
  congrArg Host.Outcome.next (show hostRead (0x80 + 0x00) 4 s0 = s0 by decide)

/-- A fair run of ticks alone, from DELAY = 1, and a run of reads of TICK alone. -/
theorem witness_DelayEndsUnderFairness :
    (InfiniteRun (fun _ => tickInput) ticked ∧ FairTicks (fun _ => tickInput) ticked ∧ (ticked 0).halted = false ∧
      tickInput.agentStep = true ∧ tickInput ≠ cmdInput (ticked 0).cfg 0x01) ∧
    (InfiniteRun (fun _ => rdInput cfg 0x00) (fun _ => s0) ∧ s0.halted = false ∧
      (rdInput cfg 0x00).agentStep = true ∧ rdInput cfg 0x00 ≠ cmdInput cfg 0x01 ∧ rdInput cfg 0x00 ≠ tickInput) :=
  ⟨⟨ticked_run, fun n _ => ⟨n, Nat.le_refl n, rfl⟩, rfl, by decide, by decide⟩, reads_run, by decide⟩

end Sys2Proof.Tests
end

/-! What each meaning can do in a running block, said once: the branches with their guards. -/

namespace Sys2Proof.Machine

/-- In a running block a meaning ends in the state it computed. -/
theorem eq_of_whenRunning {s u t : State} (hr : s.halted = false) (h : whenRunning s u = .next t) : t = u := by
  rw [whenRunning_running hr] at h
  injection h with h
  exact h.symm

/-- What LINE v can do (44_debounce.md R181, R182). -/
theorem execLine_next_cases {v : Bool} {s t : State} (hr : s.halted = false) (h : execLine v s = .next t) :
    (s.level = true ∧ v = false ∧ s.cfg.debounceWindow < elapsedSince s s.btnLast ∧
      t = { s with level := v, pending := true, btnLast := s.tick }) ∨
    (¬ (s.level = true ∧ v = false ∧ s.cfg.debounceWindow < elapsedSince s s.btnLast) ∧
      t = { s with level := v }) := by
  obtain rfl := eq_of_whenRunning hr h
  by_cases hf : s.level = true ∧ v = false
  · obtain ⟨hl, rfl⟩ := hf
    rcases fallingEdge_cases { s with level := false } with ⟨he, e⟩ | ⟨he, e⟩
    · exact .inl ⟨hl, rfl, he, by simp [hl, e]⟩
    · exact .inr ⟨fun ⟨_, _, hlt⟩ => absurd hlt (Nat.not_lt.mpr he), by simp [hl, e]⟩
  · exact .inr ⟨fun ⟨hl, hv, _⟩ => hf ⟨hl, hv⟩, if_neg (by simpa using hf)⟩

/-- What BTNPOLL can do (44_debounce.md R184). -/
theorem execBtnpoll_next_cases {s t : State} (hr : s.halted = false) (h : execBtnpoll s = .next t) :
    (s.confirmed = true ∧ s.level = true ∧
      t = setResult 2 { s with pending := false, confirmed := false }) ∨
    (s.confirmed = true ∧ s.level = false ∧ t = setResult 3 s) ∨
    (s.confirmed = false ∧ s.pending = true ∧ t = setResult 1 s) ∨
    (s.confirmed = false ∧ s.pending = false ∧ t = setResult 0 s) := by
  obtain rfl := eq_of_whenRunning hr h
  cases s.confirmed
  · cases s.pending <;> simp [pollCode]
  · cases s.level <;> simp [pollCode]

/-- What BTNCONF can do (44_debounce.md R185). -/
theorem execBtnconf_next_cases {s t : State} (hr : s.halted = false) (h : execBtnconf s = .next t) :
    (s.pending = true ∧ s.confirmed = false ∧ s.level = true ∧ t = setResult 0 { s with pending := false }) ∨
    (s.pending = true ∧ s.confirmed = false ∧ s.level = false ∧
      t = setResult 1 { s with sel := nextSel s.sel, confirmed := true }) ∨
    (¬ (s.pending = true ∧ s.confirmed = false) ∧ t = setResult 2 s) := by
  obtain rfl := eq_of_whenRunning hr h
  by_cases hp : s.pending = true ∧ s.confirmed = false
  · obtain ⟨hp, hc⟩ := hp
    cases s.level <;> simp [hp, hc, confCode]
  · exact .inr (.inr ⟨hp, if_neg (by simpa using hp)⟩)

/-- What BREN can do (43_breathing.md R161). -/
theorem execBren_next_cases {on : Bool} {s t : State} (hr : s.halted = false) (h : execBren on s = .next t) :
    (on = true ∧ s.en = true ∧ t = s) ∨ (¬ (on = true ∧ s.en = true) ∧ t = restartWave on s) := by
  obtain rfl := eq_of_whenRunning hr h
  by_cases he : on = true ∧ s.en = true
  · exact .inl ⟨he.1, he.2, if_pos (by simpa using he)⟩
  · exact .inr ⟨he, if_neg (by simpa using he)⟩

/-- What GATE g can do (42_interval.md R143). -/
theorem execGate_next_cases {g : BitVec 8} {s t : State} (hr : s.halted = false) (h : execGate g s = .next t) :
    (g.toNat < s.cfg.nGates ∧ s.arga.toNat ≤ elapsedSince s (readGate s g.toNat) ∧
      t = setResult 1 (setGate g.toNat s.tick s)) ∨
    (g.toNat < s.cfg.nGates ∧ elapsedSince s (readGate s g.toNat) < s.arga.toNat ∧ t = setResult 0 s) ∨
    (s.cfg.nGates ≤ g.toNat ∧ t = errState 2 s) := by
  obtain rfl := eq_of_whenRunning hr h
  by_cases hg : g.toNat < s.cfg.nGates
  · rcases pollGate_cases g.toNat s with ⟨hd, e⟩ | ⟨hd, e⟩
    · exact .inl ⟨hg, hd, by simp [gateExists, gateIndex, hg, e]⟩
    · exact .inr (.inl ⟨hg, hd, by simp [gateExists, gateIndex, hg, e]⟩)
  · exact .inr (.inr ⟨Nat.le_of_not_lt hg, by simp [gateExists, gateIndex, hg, raiseErr_badIndex]⟩)

/-- What GATESET g can do (42_interval.md R144). -/
theorem execGateset_next_cases {g : BitVec 8} {s t : State} (hr : s.halted = false)
    (h : execGateset g s = .next t) :
    (g.toNat < s.cfg.nGates ∧ t = setGate g.toNat (tickOperand s.cfg s.arga) s) ∨
    (s.cfg.nGates ≤ g.toNat ∧ t = errState 2 s) := by
  obtain rfl := eq_of_whenRunning hr h
  by_cases hg : g.toNat < s.cfg.nGates
  · exact .inl ⟨hg, if_pos (decide_eq_true hg)⟩
  · exact .inr ⟨Nat.le_of_not_lt hg, if_neg (mt of_decide_eq_true hg)⟩

/-- What BRSTEP can do (43_breathing.md R162). -/
theorem execBrstep_next_cases {s t : State} (hr : s.halted = false) (h : execBrstep s = .next t) :
    (elapsedSince s s.brLast < s.cfg.breathInterval ∧ t = setResult 0 s) ∨
    (s.cfg.breathInterval ≤ elapsedSince s s.brLast ∧ t = waveStep { s with brLast := s.tick, result := 1 }) := by
  rcases execBrstep_cases s with ⟨hh, _⟩ | ⟨_, hd, e⟩ | ⟨_, hd, e⟩
  · simp [hr] at hh
  · rw [e] at h; injection h with h; exact .inl ⟨hd, h.symm⟩
  · rw [e] at h; injection h with h; exact .inr ⟨hd, h.symm⟩

/-- What one step can do: nothing with no input left, else what the next input does (60_exceptions.md R216). -/
theorem step_next_cases {s t : State} (h : step s = .next t) :
    (s.inputs = [] ∧ t = s) ∨
    (∃ inp rest, s.inputs = inp :: rest ∧ stepOn inp { s with inputs := rest } = .next t) := by
  cases hi : s.inputs with
  | nil =>
    simp only [step, takeInput, hi] at h
    injection h with h
    exact .inl ⟨rfl, h.symm⟩
  | cons inp rest =>
    have hs : { s with inputs := inp :: rest } = s := by rw [← hi]
    exact .inr ⟨inp, rest, rfl, by simpa only [stepOn, hs] using h⟩

end Sys2Proof.Machine

/-! The invariant (10_state.md R35): it holds after reset, and each update a meaning or an access makes keeps it. -/

namespace Sys2Proof.Machine

/-- Being at reset says nothing of what the outside does next or of what the host has read (log 15). -/
theorem atReset_inputs_readData {s : State} (h : AtReset s) (ins : List Input) (d : Word) :
    AtReset { s with inputs := ins, readData := d } := by
  have hu := congrArg (fun u : State => { u with inputs := ins, readData := d }) h
  exact hu

/-- The invariant says nothing of what the outside does next or of what the host has read (log 5, log 7). -/
theorem inv_inputs_readData {s : State} (hs : s.Inv) (ins : List Input) (d : Word) :
    State.Inv { s with inputs := ins, readData := d } :=
  { hs with
    halted_reset := fun hh => atReset_inputs_readData (hs.halted_reset hh) ins d }

/-- 70_reset_and_hazards.md R240: the reset values meet the invariant, halted or not. -/
theorem inv_resetOf {c : Config} (hc : c.Legal) (ok : Bool) : (State.resetOf c ok).Inv := by
  have hp := two_pow_pos c.w
  obtain ⟨-, -, -, -, -, -, hsel, -, -⟩ := id hc
  exact {
    legal := hc
    tick_lt := hp
    delay_lt := hp
    brLast_lt := hp
    btnLast_lt := hp
    gates := List.length_replicate
    gates_lt := fun t ht => List.eq_of_mem_replicate ht ▸ hp
    step_le := Nat.zero_le _
    duty_le := Nat.zero_le _
    sel_lt := by simp [State.resetOf, nSel]; omega
    confirmed_pending := nofun
    disabled := fun _ => ⟨rfl, rfl, rfl⟩
    rising := fun _ => Nat.zero_le _
    falling := nofun
    cause_le := Nat.zero_le _
    err_cause := by simp [State.resetOf]
    halted_reset := fun _ => rfl }

/-- The default and reference values of 00_scope.md R6 are legal, whatever the open PERIOD is (log 2). -/
theorem legal_reference : Config.reference.Legal := by
  have hp : Config.reference.period ≤ 4294967295 := Config.openPeriod.isLt
  exact ⟨by decide, by decide, by decide, ⟨Nat.succ_pos _, hp⟩, by decide, by decide, by decide, rfl, by decide⟩

theorem inv_takeReset {s : State} (hs : s.Inv) (ok : Bool) : (takeReset ok s).Inv :=
  inv_inputs_readData (inv_resetOf hs.legal ok) s.inputs s.readData

section Running
/-! A running block: `halted_reset` has nothing to say, and each update has the fields it writes to answer for. -/

variable {s : State} (hs : s.Inv) (hr : s.halted = false)

include hr in
/-- What the invariant says of a halted block asks nothing of a running one. -/
theorem running_not_halted {p : Prop} (h : s.halted = true) : p := by simp [hr] at h

include hs hr

theorem inv_operands (a b : Word) : State.Inv { s with arga := a, argb := b } :=
  { hs with halted_reset := running_not_halted hr }

theorem inv_setResult (v : Word) : (setResult v s).Inv :=
  { hs with halted_reset := running_not_halted hr }

theorem inv_delay {n : Nat} (hn : n < 2 ^ s.cfg.w) : State.Inv { s with delay := n } :=
  { hs with delay_lt := hn, halted_reset := running_not_halted hr }

theorem inv_tick {n : Nat} (hn : n < 2 ^ s.cfg.w) : State.Inv { s with tick := n } :=
  { hs with tick_lt := hn, halted_reset := running_not_halted hr }

theorem inv_level (v : Bool) : State.Inv { s with level := v } :=
  { hs with halted_reset := running_not_halted hr }

/-- An accepted edge sets PENDING and records TICK (44_debounce.md R182). -/
theorem inv_edge : State.Inv { s with pending := true, btnLast := s.tick } :=
  { hs with
    btnLast_lt := hs.tick_lt
    confirmed_pending := fun _ => rfl
    halted_reset := running_not_halted hr }

/-- PENDING and CONFIRMED take any two values that keep CONFIRMED implying PENDING. -/
theorem inv_press (p c : Bool) (h : c = true → p = true) : State.Inv { s with pending := p, confirmed := c } :=
  { hs with confirmed_pending := h, halted_reset := running_not_halted hr }

/-- A confirmation advances SEL modulo 3 and needs PENDING (44_debounce.md R185, R186). -/
theorem inv_confirm (hp : s.pending = true) : State.Inv { s with sel := nextSel s.sel, confirmed := true } :=
  { hs with
    sel_lt := (Nat.mod_le _ _).trans_lt (Nat.mod_lt _ (by decide))
    confirmed_pending := fun _ => hp
    halted_reset := running_not_halted hr }

theorem inv_setGate (g : Nat) {v : Nat} (hv : v < 2 ^ s.cfg.w) : (setGate g v s).Inv :=
  { hs with
    gates := (setGate_length g v s).trans hs.gates
    gates_lt := setGate_lt hv hs.gates_lt
    halted_reset := running_not_halted hr }

/-- An error leaves a cause of 60_exceptions.md R211 and ERR = 1 (R212). -/
theorem inv_errState {c : BitVec 4} (hc : c.toNat ≤ 3) (h0 : c ≠ 0) : (errState c s).Inv :=
  { hs with
    cause_le := by
      have h := hs.cause_le
      simp only [errState]
      split <;> assumption
    err_cause := by
      simp only [errState, true_iff]
      split <;> assumption
    halted_reset := running_not_halted hr }

theorem inv_restartWave (on : Bool) : (restartWave on s).Inv :=
  { hs with
    step_le := Nat.zero_le _
    duty_le := Nat.zero_le _
    disabled := fun _ => ⟨rfl, rfl, rfl⟩
    rising := fun _ => Nat.zero_le _
    falling := nofun
    halted_reset := running_not_halted hr }

theorem inv_brLast : State.Inv { s with brLast := s.tick } :=
  { hs with brLast_lt := hs.tick_lt, halted_reset := running_not_halted hr }

omit hr in
/-- DUTY holds duty(k), which is at most PERIOD (43_breathing.md R160). -/
theorem dutyWord_le_period (k : Nat) : (dutyWord s.cfg k).toNat ≤ s.cfg.period :=
  (dutyWord_toNat hs.legal k).trans_le (dutyOf_le_period s.cfg k)

omit hr in
/-- STEP holds every number up to STEPS whole. -/
theorem stepIdx_ofNat {k : Nat} (hk : k ≤ s.cfg.steps) : (BitVec.ofNat 16 k).toNat = k := by
  obtain ⟨-, -, ⟨-, hsteps⟩, -⟩ := hs.legal
  rw [BitVec.toNat_ofNat, Nat.mod_eq_of_lt (by omega)]

/-- Rising: STEP stays below STEPS, or is STEPS and DIR has turned (43_breathing.md R162). -/
theorem inv_riseStep (he : s.en = true) : (riseStep s).Inv := by
  obtain ⟨-, -, ⟨hsteps, -⟩, -⟩ := hs.legal
  have hk := stepIdx_ofNat hs (k := min (s.stepIdx.toNat + 1) s.cfg.steps) (Nat.min_le_right _ _)
  exact { hs with
    step_le := by simp only [riseStep_stepIdx, riseStep_cfg, hk]; omega
    duty_le := dutyWord_le_period hs _
    disabled := fun h => by simp [he] at h
    rising := fun hd => by
      simp only [riseStep_dir, riseStep_stepIdx, riseStep_cfg, hk] at hd ⊢
      split at hd
      · cases hd
      · omega
    falling := fun _ => by simp only [riseStep_stepIdx, hk]; omega
    halted_reset := running_not_halted hr }

/-- Falling: STEP stays at least 1, or is 0 and DIR has turned (43_breathing.md R162). -/
theorem inv_fallStep (he : s.en = true) : (fallStep s).Inv := by
  have hle := hs.step_le
  have hk := stepIdx_ofNat hs (k := s.stepIdx.toNat - 1) (by omega)
  exact { hs with
    step_le := by simp only [fallStep_stepIdx, fallStep_cfg, hk]; omega
    duty_le := dutyWord_le_period hs _
    disabled := fun h => by simp [he] at h
    rising := fun _ => by simp only [fallStep_stepIdx, fallStep_cfg, hk]; omega
    falling := fun hf => by
      simp only [fallStep_dir, fallStep_stepIdx, hk] at hf ⊢
      split at hf
      · cases hf
      · omega
    halted_reset := running_not_halted hr }

/-- The transition of a due BRSTEP: disabled, rising or falling (43_breathing.md R162). -/
theorem inv_waveStep : (waveStep s).Inv := by
  rcases waveStep_cases s with ⟨he, e⟩ | ⟨he, _, e⟩ | ⟨he, _, e⟩ <;> rw [e]
  · exact { hs with
      duty_le := Nat.zero_le _
      disabled := fun h => ⟨(hs.disabled h).1, (hs.disabled h).2.1, rfl⟩
      halted_reset := running_not_halted hr }
  · exact inv_riseStep hs hr he
  · exact inv_fallStep hs hr he

end Running

/-- Every command and every event keeps the invariant. -/
theorem exec_keeps_inv {i : Instr} {s t : State} (hs : s.Inv) (h : exec i s = .next t) : t.Inv := by
  cases hr : s.halted with
  | true =>
    rw [exec_halted hr] at h
    injection h with h
    exact h ▸ hs
  | false =>
    cases i with
    | nop =>
      obtain rfl := eq_of_whenRunning hr h
      exact hs
    | dlyset =>
      obtain rfl := eq_of_whenRunning hr h
      exact inv_delay hs hr (modW_lt _ _)
    | diff | elapsed =>
      obtain rfl := eq_of_whenRunning hr h
      exact inv_setResult hs hr _
    | gate g =>
      rcases execGate_next_cases hr h with ⟨_, _, rfl⟩ | ⟨_, _, rfl⟩ | ⟨_, rfl⟩
      · exact inv_setResult (inv_setGate hs hr _ hs.tick_lt) hr _
      · exact inv_setResult hs hr _
      · exact inv_errState hs hr (by decide) (by decide)
    | gateset g =>
      rcases execGateset_next_cases hr h with ⟨_, rfl⟩ | ⟨_, rfl⟩
      · exact inv_setGate hs hr _ (modW_lt _ _)
      · exact inv_errState hs hr (by decide) (by decide)
    | bren on =>
      rcases execBren_next_cases hr h with ⟨_, _, rfl⟩ | ⟨_, rfl⟩
      · exact hs
      · exact inv_restartWave hs hr on
    | brstep =>
      rcases execBrstep_next_cases hr h with ⟨_, rfl⟩ | ⟨_, rfl⟩
      · exact inv_setResult hs hr _
      · exact inv_waveStep (inv_setResult (inv_brLast hs hr) hr 1) hr
    | btnpoll =>
      rcases execBtnpoll_next_cases hr h with ⟨_, _, rfl⟩ | ⟨_, _, rfl⟩ | ⟨_, _, rfl⟩ | ⟨_, _, rfl⟩
      · exact inv_setResult (inv_press hs hr false false nofun) hr _
      all_goals exact inv_setResult hs hr _
    | btnconf =>
      rcases execBtnconf_next_cases hr h with ⟨_, hc, _, rfl⟩ | ⟨hp, _, _, rfl⟩ | ⟨_, rfl⟩
      · exact inv_setResult (inv_press hs hr false s.confirmed (by simp [hc])) hr _
      · exact inv_setResult (inv_confirm hs hr hp) hr _
      · exact inv_setResult hs hr _
    | tick =>
      obtain rfl := eq_of_whenRunning hr h
      have hd := hs.delay_lt
      exact inv_delay (inv_tick hs hr (modW_lt _ _)) hr (by dsimp only; split <;> omega)
    | line v =>
      rcases execLine_next_cases hr h with ⟨_, _, _, rfl⟩ | ⟨_, rfl⟩
      · exact inv_edge (inv_level hs hr v) hr
      · exact inv_level hs hr v

/-- Every input keeps the invariant. -/
theorem stepOn_keeps_inv {inp : Input} {s t : State} (hs : s.Inv) (h : stepOn inp s = .next t) : t.Inv := by
  rcases stepOn_cases h with ⟨ok, _, rfl⟩ | ⟨_, he⟩ | ⟨_, _, he⟩ | ⟨_, _, _, _, _, he⟩ | ⟨a, b, d, _, hab, rfl⟩ |
    ⟨c, d, _, hr, hc, rfl⟩
  · exact inv_takeReset hs ok
  · exact exec_keeps_inv hs he
  · exact exec_keeps_inv hs he
  · exact exec_keeps_inv hs he
  · rcases Bool.eq_false_or_eq_true s.halted with hr | hr
    · obtain ⟨rfl, rfl⟩ := hab hr
      exact inv_inputs_readData hs s.inputs d
    · exact inv_inputs_readData (inv_operands hs hr a b) s.inputs d
  · have he : (errState c s).Inv := by rcases hc with rfl | rfl <;> exact inv_errState hs hr (by decide) (by decide)
    exact inv_inputs_readData he s.inputs d

/-- Settles O34: `inv_resetOf`, the second half at the legal reference values. -/
theorem invariantAfterReset : Obligations.InvariantAfterReset :=
  ⟨fun _ ok hc => inv_resetOf hc ok, inv_resetOf legal_reference true⟩

/-- Settles O35: with no input left nothing changes, and `stepOn_keeps_inv` is about the next input. -/
theorem invariantKeptByEveryStep : Obligations.InvariantKeptByEveryStep := by
  intro s t hs h
  rcases step_next_cases h with ⟨_, rfl⟩ | ⟨inp, rest, _, hstep⟩
  · exact hs
  · exact stepOn_keeps_inv (inv_inputs_readData hs rest s.readData) hstep

end Sys2Proof.Machine

/-! A command word that decodes is the word of what it decodes to, so it stands for no event and DLYSET has one word. -/

namespace Sys2Proof

/-- Opcode lookup answers a command written with that opcode, if every entry of the table is. -/
theorem encode_of_plainOp {op : BitVec 8} {i : Instr} {l : List (BitVec 8 × Instr)}
    (hl : ∀ e ∈ l, encode e.2 = .command (commandWord e.1 0)) (h : plainOp op l = some i) :
    encode i = .command (commandWord op 0) := by
  induction l with
  | nil => cases h
  | cons e rest ih =>
    simp only [plainOp] at h
    split at h
    · next he =>
      injection h with h
      exact h ▸ he ▸ hl e (by simp)
    · exact ih (fun x hx => hl x (by simp [hx])) h

/-- An index with IDX[7:1] = 0 is its lowest bit (30_encoding.md R83, BREN). -/
theorem bren_index {idx : BitVec 8} (h : idx.extractLsb' 1 7 = 0#7) :
    0#7 ++ BitVec.ofBool (idx.getLsbD 0) = idx := by
  decide +revert

theorem encode_of_decodeOp {op idx : BitVec 8} {i : Instr} (h : decodeOp op idx = .instr i) :
    encode i = .command (commandWord op idx) := by
  unfold decodeOp at h
  split at h
  · next ho => injection h with h; subst h ho; rfl
  split at h
  · next ho => injection h with h; subst h ho; rfl
  split at h
  · next ho =>
    split at h
    · cases h
    · next hi =>
      injection h with h
      subst h ho
      exact congrArg (fun x => Encoded.command (commandWord 0x10#8 x)) (bren_index (not_not.mp hi))
  split at h
  · cases h
  · next hp =>
    split at h
    · cases h
    · next hi =>
      injection h with h
      rw [← h, not_not.mp hi]
      exact encode_of_plainOp (by decide) hp

theorem encode_of_decodeCommand {v : BitVec 32} {i : Instr} (h : decodeCommand v = .instr i) :
    encode i = .command v := by
  unfold decodeCommand at h
  split at h
  · cases h
  · next hrsv =>
    rw [encode_of_decodeOp h, commandWord_of_fields (not_not.mp hrsv)]

end Sys2Proof

/-! The write rights of 10_state.md R36. -/

namespace Sys2Proof.Machine

/-- What no host access changes, except that PENDING may be cleared (10_state.md R36). DELAY, which DLYSET alone writes, is
apart. -/
structure HostKeeps (s t : State) : Prop where
  tick : t.tick = s.tick
  btnLast : t.btnLast = s.btnLast
  level : t.level = s.level
  pending : t.pending = true → s.pending = true

/-- A due BRSTEP's transition writes the breathing generator only (43_breathing.md R162). -/
theorem waveStep_frame (s : State) :
    waveStep s = { s with
      dir := (waveStep s).dir, stepIdx := (waveStep s).stepIdx, duty := (waveStep s).duty } := by
  rcases waveStep_cases s with ⟨_, e⟩ | ⟨_, _, e⟩ | ⟨_, _, e⟩ <;> rw [e] <;> rfl

/-- The frame of the ten commands: those of the host's write rights (10_state.md R36). -/
theorem exec_command_hostKeeps {i : Instr} {v : Word} {s t : State} (hi : encode i = .command v)
    (h : exec i s = .next t) : HostKeeps s t ∧ (i ≠ .dlyset → t.delay = s.delay) := by
  cases hr : s.halted with
  | true =>
    rw [exec_halted hr] at h
    injection h with h
    exact h ▸ ⟨⟨rfl, rfl, rfl, id⟩, fun _ => rfl⟩
  | false =>
    cases i with
    | tick => cases hi
    | line b => cases hi
    | dlyset =>
      obtain rfl := eq_of_whenRunning hr h
      exact ⟨⟨rfl, rfl, rfl, id⟩, fun hd => absurd rfl hd⟩
    | nop | diff | elapsed =>
      obtain rfl := eq_of_whenRunning hr h
      exact ⟨⟨rfl, rfl, rfl, id⟩, fun _ => rfl⟩
    | gate g =>
      rcases execGate_next_cases hr h with ⟨_, _, rfl⟩ | ⟨_, _, rfl⟩ | ⟨_, rfl⟩ <;>
        exact ⟨⟨rfl, rfl, rfl, id⟩, fun _ => rfl⟩
    | gateset g =>
      rcases execGateset_next_cases hr h with ⟨_, rfl⟩ | ⟨_, rfl⟩ <;> exact ⟨⟨rfl, rfl, rfl, id⟩, fun _ => rfl⟩
    | bren on =>
      rcases execBren_next_cases hr h with ⟨_, _, rfl⟩ | ⟨_, rfl⟩ <;> exact ⟨⟨rfl, rfl, rfl, id⟩, fun _ => rfl⟩
    | brstep =>
      rcases execBrstep_next_cases hr h with ⟨_, rfl⟩ | ⟨_, rfl⟩
      · exact ⟨⟨rfl, rfl, rfl, id⟩, fun _ => rfl⟩
      · rw [waveStep_frame]
        exact ⟨⟨rfl, rfl, rfl, id⟩, fun _ => rfl⟩
    | btnpoll =>
      rcases execBtnpoll_next_cases hr h with ⟨_, _, rfl⟩ | ⟨_, _, rfl⟩ | ⟨_, _, rfl⟩ | ⟨_, _, rfl⟩
      · exact ⟨⟨rfl, rfl, rfl, nofun⟩, fun _ => rfl⟩
      all_goals exact ⟨⟨rfl, rfl, rfl, id⟩, fun _ => rfl⟩
    | btnconf =>
      rcases execBtnconf_next_cases hr h with ⟨_, _, _, rfl⟩ | ⟨_, _, _, rfl⟩ | ⟨_, rfl⟩
      · exact ⟨⟨rfl, rfl, rfl, nofun⟩, fun _ => rfl⟩
      all_goals exact ⟨⟨rfl, rfl, rfl, id⟩, fun _ => rfl⟩

/-- A host access has the host's write rights, and of all accesses only the word of DLYSET changes DELAY. -/
theorem stepOn_access_hostKeeps {inp : Input} {s t : State} (ha : inp.agentStep = true) (he : ∀ ev, inp ≠ .event ev)
    (h : stepOn inp s = .next t) : HostKeeps s t ∧ (inp ≠ cmdInput s.cfg 0x01 → t.delay = s.delay) := by
  rcases stepOn_cases h with ⟨ok, rfl, _⟩ | ⟨hi, _⟩ | ⟨v, hi, _⟩ | ⟨v, i, _, rfl, hd, hx⟩ | ⟨_, _, _, _, _, rfl⟩ |
    ⟨_, _, _, _, _, rfl⟩
  · cases ha
  · exact absurd hi (he _)
  · exact absurd hi (he _)
  · have hv := encode_of_decodeCommand hd
    obtain ⟨hk, hdelay⟩ := exec_command_hostKeeps hv hx
    refine ⟨hk, fun hne => hdelay ?_⟩
    rintro rfl
    injection hv with hv
    exact hne (hv ▸ rfl)
  · exact ⟨⟨rfl, rfl, rfl, id⟩, fun _ => rfl⟩
  · exact ⟨⟨rfl, rfl, rfl, id⟩, fun _ => rfl⟩

/-- The frame of TICK (10_state.md R36, 41_tick_delay.md R120). -/
theorem execTick_frame {s t : State} (h : execTick s = .next t) : t = { s with tick := t.tick, delay := t.delay } := by
  rcases whenRunning_eq_next.mp h with ⟨_, rfl⟩ | ⟨_, rfl⟩ <;> rfl

/-- The frame of LINE v, which never clears PENDING (10_state.md R36, 44_debounce.md R181, R182). -/
theorem execLine_frame {v : Bool} {s t : State} (h : execLine v s = .next t) :
    t = { s with level := t.level, pending := t.pending, btnLast := t.btnLast } ∧
      (s.pending = true → t.pending = true) := by
  rcases Bool.eq_false_or_eq_true s.halted with hr | hr
  · obtain rfl := Host.Outcome.next.inj ((whenRunning_halted hr _).symm.trans h)
    exact ⟨rfl, id⟩
  · rcases execLine_next_cases hr h with ⟨_, _, _, rfl⟩ | ⟨_, rfl⟩
    · exact ⟨rfl, fun _ => rfl⟩
    · exact ⟨rfl, id⟩

/-- The frame of a host read (10_state.md R36, 20_memory.md R52, R53). -/
theorem stepOn_read_frame {addr size : Nat} {s t : State} (h : stepOn (.read addr size) s = .next t) :
    t = { s with readData := t.readData, err := t.err, ecause := t.ecause } := by
  rcases stepOn_read_cases addr size s with ⟨_, _, e⟩ | ⟨_, _, e⟩ | ⟨_, _, e⟩ <;> rw [e] at h <;>
    injection h with h <;> subst h <;> rfl

/-- Settles O36: one frame per kind of agent step. -/
theorem singleWriterPerField : Obligations.SingleWriterPerField := by
  intro s t inp ha h
  refine ⟨?_, ?_, ?_, ?_⟩
  · rintro rfl
    exact execTick_frame h
  · rintro v rfl
    exact execLine_frame ((stepOn_line v s).symm.trans h)
  · rintro addr size rfl
    exact stepOn_read_frame h
  · intro he
    obtain ⟨hk, hdelay⟩ := stepOn_access_hostKeeps ha he h
    exact ⟨hk.tick, hk.btnLast, hk.level, hk.pending, hdelay⟩

end Sys2Proof.Machine

/-! Host accesses (20_memory.md): the rule of each kind of write and of a legal read, and the words a read assembles. -/

namespace Sys2Proof.Machine

/-- A 4-byte write to ARGA stores the whole word and does nothing else (20_memory.md R57). -/
theorem stepOn_wrInput_arga {s : State} (hr : s.halted = false) (v : Word) :
    stepOn (wrInput s.cfg 0x0C v) s = .next { s with arga := v } := by
  have hw : windowReg s.cfg (s.cfg.base + 0x0C) 4 = some .arga := windowReg_offset _ (by decide) (by decide)
  simp [wrInput, stepOn_write, hostWrite, hr, hw]

/-- A 4-byte write to ARGB stores the whole word and does nothing else (20_memory.md R57). -/
theorem stepOn_wrInput_argb {s : State} (hr : s.halted = false) (v : Word) :
    stepOn (wrInput s.cfg 0x10 v) s = .next { s with argb := v } := by
  have hw : windowReg s.cfg (s.cfg.base + 0x10) 4 = some .argb := windowReg_offset _ (by decide) (by decide)
  simp [wrInput, stepOn_write, hostWrite, hr, hw]

theorem stepOn_write_halted {s : State} (hh : s.halted = true) (addr size : Nat) (v : Word) :
    stepOn (.write addr size v) s = .next s := by
  simp [stepOn_write, hostWrite, hh]

theorem writeLegal_of_eq_wrInput {c : Config} {addr size off : Nat} {v : Word}
    (h : Input.write addr size v = wrInput c off v) (hoff : off ∈ [0x08, 0x0C, 0x10]) : WriteLegal c addr size := by
  injection h with ha hsize
  exact ⟨hsize, off, ha, hoff⟩

/-- An illegal write raises BAD_ACCESS and does nothing else (20_memory.md R52, R62). -/
theorem stepOn_write_illegal {s : State} (hr : s.halted = false) {addr size : Nat}
    (hl : ¬ WriteLegal s.cfg addr size) (v : Word) : stepOn (.write addr size v) s = .next (errState 3 s) := by
  rcases stepOn_write_cases addr size v s with ⟨hh, _⟩ | ⟨_, hi, _⟩ | ⟨_, hi, _⟩ | ⟨_, _, hi, _⟩ | ⟨_, _, hi, _⟩ |
    ⟨_, _, e⟩
  · simp [hr] at hh
  · exact absurd (writeLegal_of_eq_wrInput hi (by decide)) hl
  · exact absurd (writeLegal_of_eq_wrInput hi (by decide)) hl
  · exact absurd (writeLegal_of_eq_wrInput hi (by decide)) hl
  · exact absurd (writeLegal_of_eq_wrInput hi (by decide)) hl
  · exact e

/-- An illegal read raises BAD_ACCESS, returns 0 and does nothing else (20_memory.md R52, R62). -/
theorem stepOn_read_illegal {s : State} (hc : s.cfg.Legal) (hr : s.halted = false) {addr size : Nat}
    (hl : ¬ ReadLegal s.cfg addr size) :
    stepOn (.read addr size) s = .next { errState 3 s with readData := 0 } := by
  rcases stepOn_read_cases addr size s with ⟨v, hv, _⟩ | ⟨_, hh, _⟩ | ⟨_, _, e⟩
  · exact absurd ((legalRead_isSome_iff hc addr size).mp (by simp [hv])) hl
  · simp [hr] at hh
  · exact e

/-- A read of a register of the map returns its value and changes no state (20_memory.md R53). -/
theorem stepOn_rdInput {s : State} {off : Nat} {r : Reg} {v : Word} (hoff : off < 0x80) (h4 : off % 4 = 0)
    (hreg : regAt s.cfg off = some r) (hv : regValue s r = some v) :
    stepOn (rdInput s.cfg off) s = .next { s with readData := v } := by
  have hl : legalRead s (s.cfg.base + off) 4 = some v := by
    rw [legalRead, windowReg_offset _ hoff h4, hreg]
    exact hv
  simp [rdInput, hostRead, hl, answerRead]

/-- Fields put side by side, as a number. -/
theorem toNat_append_eq_mul_add {m n : Nat} (x : BitVec m) (y : BitVec n) :
    (x ++ y).toNat = x.toNat * 2 ^ n + y.toNat := by
  rw [BitVec.toNat_append, ← Nat.shiftLeft_add_eq_or_of_lt y.isLt, Nat.shiftLeft_eq]

theorem eq_ofNat_of_toNat_eq {w n : Nat} {x : BitVec w} (h : x.toNat = n) : x = BitVec.ofNat w n := by
  rw [← h, BitVec.ofNat_toNat, BitVec.setWidth_eq]

/-- STATUS as the sum of its fields (20_memory.md R55). -/
theorem statusWord_eq_ofNat (s : State) :
    statusWord s = BitVec.ofNat 32 (s.ecause.toNat * 256 + s.halted.toNat * 4 +
      (if s.delay = 0 then 0 else 2) + s.err.toNat) := by
  have hbusy : (dlyBusy s).toNat * 2 = if s.delay = 0 then 0 else 2 := by
    by_cases h : s.delay = 0 <;> simp [dlyBusy, h]
  apply eq_ofNat_of_toNat_eq
  simp only [statusWord, toNat_append_eq_mul_add, BitVec.toNat_ofBool, BitVec.toNat_ofNat]
  omega

/-- BRSTAT as the sum of its fields (20_memory.md R55). -/
theorem brstatWord_eq_ofNat (s : State) :
    brstatWord s = BitVec.ofNat 32 (s.stepIdx.toNat * 65536 + (if s.dir = .falling then 2 else 0) + s.en.toNat) := by
  have hdir : (dirBit s.dir).toNat * 2 = if s.dir = .falling then 2 else 0 := by
    cases s.dir <;> rfl
  apply eq_ofNat_of_toNat_eq
  simp only [brstatWord, toNat_append_eq_mul_add, BitVec.toNat_ofBool, BitVec.toNat_ofNat]
  omega

/-- BTNSTAT as the sum of its fields (20_memory.md R55). -/
theorem btnstatWord_eq_ofNat (s : State) :
    btnstatWord s = BitVec.ofNat 32 (s.sel.toNat * 16 + s.level.toNat * 4 + s.confirmed.toNat * 2 + s.pending.toNat) := by
  apply eq_ofNat_of_toNat_eq
  simp only [btnstatWord, toNat_append_eq_mul_add, BitVec.toNat_ofBool, BitVec.toNat_ofNat]
  omega

/-- Settles O23: `stepOn_rdInput` at each register of the map; TICK writes TICK and DELAY only. -/
theorem legalReads : Obligations.LegalReads := by
  intro s hc
  obtain ⟨-, ⟨-, hgates⟩, -⟩ := hc
  refine ⟨?_, ?_, ?_⟩
  · intro off v hm
    rw [← statusWord_eq_ofNat, ← brstatWord_eq_ofNat, ← btnstatWord_eq_ofNat] at hm
    simp only [List.mem_cons, List.not_mem_nil, or_false, Prod.mk.injEq] at hm
    rcases hm with ⟨rfl, rfl⟩ | ⟨rfl, rfl⟩ | ⟨rfl, rfl⟩ | ⟨rfl, rfl⟩ | ⟨rfl, rfl⟩ | ⟨rfl, rfl⟩ | ⟨rfl, rfl⟩ |
      ⟨rfl, rfl⟩ | ⟨rfl, rfl⟩ | ⟨rfl, rfl⟩ | ⟨rfl, rfl⟩ <;>
      exact stepOn_rdInput (by decide) (by decide) rfl rfl
  · intro g hg
    exact stepOn_rdInput (by omega) (by omega) (regAt_gate hg) rfl
  · intro t h
    rw [execTick_frame ((stepOn_tick s).symm.trans h)]

/-- Settles O24: the rules of an illegal read and of an illegal write. -/
theorem illegalAccess : Obligations.IllegalAccess := fun _ hc hr =>
  ⟨fun _ _ hl => stepOn_read_illegal hc hr hl, fun _ _ v hl => stepOn_write_illegal hr hl v⟩

/-- Settles O25: the write, and then `stepOn_rdInput` in the state it leaves. -/
theorem operandWrites : Obligations.OperandWrites := by
  intro s v _ hr
  have ha := stepOn_wrInput_arga hr v
  have hb := stepOn_wrInput_argb hr v
  have hra := stepOn_rdInput (s := { s with arga := v }) (off := 0x0C) (by decide) (by decide) rfl rfl
  have hrb := stepOn_rdInput (s := { s with argb := v }) (off := 0x10) (by decide) (by decide) rfl rfl
  exact ⟨ha, hb, by simp only [runOn, ha, hra], by simp only [runOn, hb, hrb]⟩

/-- Settles O26: of the kinds of write only that of CMD runs a command. -/
theorem writesReachNoOtherRegister : Obligations.WritesReachNoOtherRegister := by
  intro s addr size v hne
  rcases stepOn_write_cases addr size v s with ⟨_, e⟩ | ⟨_, _, e⟩ | ⟨_, _, e⟩ | ⟨_, _, hi, _⟩ | ⟨_, _, hi, _⟩ |
    ⟨_, _, e⟩
  · exact ⟨s.arga, s.argb, s.err, s.ecause, e⟩
  · exact ⟨v, s.argb, s.err, s.ecause, e⟩
  · exact ⟨s.arga, v, s.err, s.ecause, e⟩
  · exact absurd hi hne
  · exact absurd hi hne
  · exact ⟨s.arga, s.argb, true, if s.ecause = 0 then 3 else s.ecause, e⟩

end Sys2Proof.Machine

/-! BASE decides no behaviour (20_memory.md R50): every operation of the model commutes with `rebase`. -/

namespace Sys2Proof.Machine

/-- A meaning that computes the same in the moved block answers the same there. -/
theorem whenRunning_rebase {d : Nat} {s t u v : State} (hv : v = rebase d u) (h : whenRunning s u = .next t) :
    whenRunning (rebase d s) v = .next (rebase d t) := by
  subst hv
  rcases whenRunning_eq_next.mp h with ⟨hh, rfl⟩ | ⟨hr, rfl⟩
  · exact whenRunning_halted (s := rebase d t) hh _
  · exact whenRunning_running (s := rebase d s) hr _

theorem fallingEdge_rebase (d : Nat) (s : State) : fallingEdge (rebase d s) = rebase d (fallingEdge s) := by
  simp only [fallingEdge, apply_ite (rebase d)]
  rfl

theorem pollGate_rebase (d g : Nat) (s : State) : pollGate g (rebase d s) = rebase d (pollGate g s) := by
  simp only [pollGate, apply_ite (rebase d)]
  rfl

theorem waveStep_rebase (d : Nat) (s : State) : waveStep (rebase d s) = rebase d (waveStep s) := by
  have hen : (rebase d s).en = s.en := rfl
  have hdir : (rebase d s).dir = s.dir := rfl
  unfold waveStep
  rw [hen, hdir]
  cases s.en
  · rfl
  · cases s.dir <;> rfl

/-- No command and no event reads BASE. -/
theorem exec_rebase {i : Instr} {s t : State} (d : Nat) (h : exec i s = .next t) :
    exec i (rebase d s) = .next (rebase d t) := by
  cases i with
  | nop | dlyset | diff | elapsed | tick => exact whenRunning_rebase rfl h
  | gate g => exact whenRunning_rebase (by rw [apply_ite (rebase d), ← pollGate_rebase]; rfl) h
  | gateset g | bren on => exact whenRunning_rebase (by rw [apply_ite (rebase d)]; rfl) h
  | brstep => exact whenRunning_rebase (by rw [apply_ite (rebase d), ← waveStep_rebase]; rfl) h
  | btnpoll | btnconf => exact whenRunning_rebase (by simp only [apply_ite (rebase d)]; rfl) h
  | line v => exact whenRunning_rebase (by rw [apply_ite (rebase d), ← fallingEdge_rebase]; rfl) h

/-- The same offset of the moved window is the same register (20_memory.md R51, R52). -/
theorem windowReg_rebase (d : Nat) (s : State) (addr size : Nat) :
    windowReg (rebase d s).cfg (addr + d) size = windowReg s.cfg addr size := by
  simp only [windowReg, rebase, Nat.add_sub_add_right, Nat.add_le_add_iff_right]
  rfl

theorem regValue_rebase (d : Nat) (s : State) (r : Reg) : regValue (rebase d s) r = regValue s r := by
  cases r <;> rfl

theorem legalRead_rebase (d : Nat) (s : State) (addr size : Nat) :
    legalRead (rebase d s) (addr + d) size = legalRead s addr size := by
  simp only [legalRead, windowReg_rebase, regValue_rebase]

theorem badAccess_rebase (d : Nat) (s : State) : badAccess (rebase d s) = rebase d (badAccess s) := by
  rw [badAccess, badAccess, apply_ite (rebase d)]
  rfl

theorem hostRead_rebase (d addr size : Nat) (s : State) :
    hostRead (addr + d) size (rebase d s) = rebase d (hostRead addr size s) := by
  simp only [hostRead, legalRead_rebase, badAccess_rebase]
  cases legalRead s addr size <;> rfl

theorem writeLegal_rebase {d : Nat} {s : State} {addr size : Nat} :
    WriteLegal (rebase d s).cfg (addr + d) size ↔ WriteLegal s.cfg addr size := by
  refine and_congr_right fun _ => exists_congr fun off => and_congr_left fun _ => ?_
  simp only [rebase]
  omega

/-- A 4-byte write at an offset, moved, is the write at that offset of the moved window. -/
theorem shiftInput_wrInput (d off : Nat) (s : State) (v : Word) :
    shiftInput d (wrInput s.cfg off v) = wrInput (rebase d s).cfg off v := by
  simp only [shiftInput, wrInput, rebase, Nat.add_right_comm]

/-- A write to the same offset of the moved window stores the same operand, runs the same command or raises the same
error. -/
theorem stepOn_write_rebase {d addr size : Nat} {v : Word} {s t : State}
    (h : stepOn (.write addr size v) s = .next t) :
    stepOn (shiftInput d (.write addr size v)) (rebase d s) = .next (rebase d t) := by
  rcases stepOn_write_cases addr size v s with ⟨hh, e⟩ | ⟨hr, hi, e⟩ | ⟨hr, hi, e⟩ | ⟨i, hr, hi, hd, e⟩ |
    ⟨_, hr, hi, hd, e⟩ | ⟨hr, hl, e⟩ <;> rw [e] at h
  · injection h with h
    exact h ▸ stepOn_write_halted (s := rebase d s) hh _ _ v
  · injection h with h
    rw [hi, shiftInput_wrInput, ← h]
    exact stepOn_wrInput_arga (s := rebase d s) hr v
  · injection h with h
    rw [hi, shiftInput_wrInput, ← h]
    exact stepOn_wrInput_argb (s := rebase d s) hr v
  · have hc := stepOn_cmd (s := rebase d s) hr v
    rw [hd] at hc
    rw [hi, cmdInput, shiftInput_wrInput]
    exact hc.trans (exec_rebase d h)
  · injection h with h
    have hc := stepOn_cmd (s := rebase d s) hr v
    rw [hd] at hc
    rw [hi, cmdInput, shiftInput_wrInput, ← h]
    exact hc
  · injection h with h
    exact h ▸ stepOn_write_illegal (s := rebase d s) hr (mt writeLegal_rebase.mp hl) v

/-- Settles O29: the reset, an event, a read and a write. -/
theorem baseIsNeutral : Obligations.BaseIsNeutral := by
  intro s t inp d h
  cases inp with
  | reset ok =>
    injection h with h
    exact h ▸ rfl
  | event ev =>
    rw [stepOn_event] at h
    simp only [shiftInput, stepOn_event]
    cases hd : decodeEvent ev with
    | instr i => rw [hd] at h; exact exec_rebase d h
    | illegal e => rw [hd] at h; cases h
  | read addr size =>
    injection h with h
    exact h ▸ congrArg Host.Outcome.next (hostRead_rebase d addr size s)
  | write addr size v => exact stepOn_write_rebase h

end Sys2Proof.Machine

/-! The encoding (30_encoding.md): decoding and encoding are inverse, and the checks of a command word in R84's order. -/

namespace Sys2Proof

/-- A command word put together from an opcode and an index has RSV = 0 and decodes by the two (30_encoding.md R84,
R89). -/
theorem decodeCommand_commandWord (op idx : BitVec 8) : decodeCommand (commandWord op idx) = decodeOp op idx := by
  obtain ⟨hrsv, hop, hidx⟩ := commandWord_fields op idx
  rw [decodeCommand, if_neg (not_not.mpr hrsv), hop, hidx]

/-- Decoding undoes encoding: the command word's fields by `decodeCommand_commandWord`, then the opcode's row. -/
theorem decode_encode (i : Instr) : decode (encode i) = .instr i := by
  cases i with
  | nop | dlyset | diff | elapsed | gate g | gateset g | brstep | btnpoll | btnconf =>
    exact (decodeCommand_commandWord _ _).trans rfl
  | bren on => exact (decodeCommand_commandWord _ _).trans (by cases on <;> rfl)
  | tick => rfl
  | line v => cases v <;> rfl

/-- A label with EV[1:0] = 10 is {v, 10} for v = EV[2] (30_encoding.md R88). -/
theorem line_label {ev : BitVec 3} (h : ev.extractLsb' 0 2 = 0b10#2) : BitVec.ofBool (ev.getLsbD 2) ++ 0b10#2 = ev := by
  decide +revert

theorem encode_of_decodeEvent {ev : BitVec 3} {i : Instr} (h : decodeEvent ev = .instr i) : encode i = .event ev := by
  unfold decodeEvent at h
  split at h
  · next htick => injection h with h; subst h htick; rfl
  split at h
  · next hline =>
    injection h with h
    exact h ▸ congrArg Encoded.event (line_label hline)
  · cases h

/-- Settles O1: `decode_encode`. -/
theorem decodeOfEncode : Obligations.DecodeOfEncode := decode_encode

/-- Settles O2: a word by `encode_of_decodeCommand`, a label by `encode_of_decodeEvent`. -/
theorem encodeOfDecode : Obligations.EncodeOfDecode := by
  intro e i h
  cases e with
  | command v => exact encode_of_decodeCommand h
  | event ev => exact encode_of_decodeEvent h

/-- Outside the assigned opcodes there is no command (30_encoding.md R84, R85). -/
theorem decodeOp_unassigned {op : BitVec 8} (hop : op ∉ Machine.assignedOpcodes) (idx : BitVec 8) :
    decodeOp op idx = .illegal .unassignedOpcode := by
  have hg : op ≠ 0x0A#8 := by rintro rfl; exact hop (by decide)
  have hs : op ≠ 0x0B#8 := by rintro rfl; exact hop (by decide)
  have hb : op ≠ 0x10#8 := by rintro rfl; exact hop (by decide)
  have hp : plainOp op plainOpcodes = none := by decide +revert
  rw [decodeOp, if_neg hg, if_neg hs, if_neg hb, hp]

/-- Of the assigned opcodes all but GATE, GATESET and BREN take no index (30_encoding.md R83, R84). -/
theorem decodeOp_plain {op : BitVec 8} (hop : op ∈ Machine.assignedOpcodes) (hg : ¬ (op = 0x0A#8 ∨ op = 0x0B#8))
    (hb : op ≠ 0x10#8) (idx : BitVec 8) :
    decodeOp op idx = if idx ≠ 0#8 then .illegal .nonzeroIndex else .instr (Machine.plainCommand op) := by
  obtain ⟨hga, hgs⟩ := not_or.mp hg
  have hp : plainOp op plainOpcodes = some (Machine.plainCommand op) := by decide +revert
  rw [decodeOp, if_neg hga, if_neg hgs, if_neg hb, hp]

/-- GATE and GATESET take any index: whether the slot exists, their meanings check (30_encoding.md R84; log 10). -/
theorem decodeOp_gates {op : BitVec 8} (hg : op = 0x0A#8 ∨ op = 0x0B#8) (idx : BitVec 8) :
    decodeOp op idx = .instr (if op = 0x0A#8 then .gate idx else .gateset idx) := by
  rcases hg with rfl | rfl <;> rfl

end Sys2Proof

namespace Sys2Proof.Machine

theorem gateExists_eq_false {c : Config} {g : BitVec 8} (h : c.nGates ≤ g.toNat) : gateExists c g = false :=
  decide_eq_false (Nat.not_lt.mpr h)

section Running
/-! What a running block does with a word written to CMD (30_encoding.md R84, R85). -/

variable {s : State} (hr : s.halted = false)
include hr

theorem stepOn_cmd_instr {v : Word} {i : Instr} (hd : decodeCommand v = .instr i) :
    stepOn (cmdInput s.cfg v) s = exec i s := by
  rw [stepOn_cmd hr, hd]

theorem stepOn_cmd_illegal {v : Word} {e : DecodeError} (hd : decodeCommand v = .illegal e) :
    stepOn (cmdInput s.cfg v) s = .next (errState 1 s) := by
  rw [stepOn_cmd hr, hd]

/-- GATE on a slot that does not exist raises BAD_INDEX and does nothing else (42_interval.md R143). -/
theorem exec_gate_badIndex {g : BitVec 8} (hg : s.cfg.nGates ≤ g.toNat) :
    exec (.gate g) s = .next (errState 2 s) := by
  simp [exec, execGate, whenRunning_running hr, gateExists_eq_false hg, raiseErr_badIndex]

/-- GATESET on a slot that does not exist raises BAD_INDEX and does nothing else (42_interval.md R144). -/
theorem exec_gateset_badIndex {g : BitVec 8} (hg : s.cfg.nGates ≤ g.toNat) :
    exec (.gateset g) s = .next (errState 2 s) := by
  simp [exec, execGateset, whenRunning_running hr, gateExists_eq_false hg, raiseErr_badIndex]

end Running

/-- A label that names an event runs it (30_encoding.md R88). -/
theorem stepOn_event_instr {ev : BitVec 3} {i : Instr} (hd : decodeEvent ev = .instr i) (s : State) :
    stepOn (.event ev) s = exec i s := by
  rw [stepOn_event, hd]

/-- A label that names no event has no step (30_encoding.md R88, log 12). -/
theorem stepOn_event_illegal {ev : BitVec 3} {e : DecodeError} (hd : decodeEvent ev = .illegal e) (s : State) :
    stepOn (.event ev) s = .refused (.noSuchEvent ev) := by
  rw [stepOn_event, hd]

/-- Settles O4: RSV here, then the branches of `decodeOp`; the index of GATE and GATESET is checked by the meaning. -/
theorem commandWordChecks : Obligations.CommandWordChecks := by
  rintro s v op idx hr rfl rfl
  split
  · next hrsv => exact stepOn_cmd_illegal hr (if_pos hrsv)
  · next hrsv =>
    have hd : decodeCommand v = decodeOp (v.extractLsb' 0 8) (v.extractLsb' 8 8) := if_neg hrsv
    split
    · next hop => exact stepOn_cmd_illegal hr (hd.trans (decodeOp_unassigned hop _))
    · next hop =>
      split
      · next hg =>
        rw [stepOn_cmd_instr hr (hd.trans (decodeOp_gates hg _))]
        by_cases hidx : s.cfg.nGates ≤ (v.extractLsb' 8 8).toNat
        · rw [if_pos hidx, apply_ite (exec · s), exec_gate_badIndex hr hidx, exec_gateset_badIndex hr hidx, ite_self]
        · rw [if_neg hidx]
      · next hg =>
        split
        · next hb =>
          rw [hb] at hd
          split
          · next hidx => exact stepOn_cmd_illegal hr (hd.trans (if_pos hidx))
          · next hidx => exact stepOn_cmd_instr hr (hd.trans (if_neg hidx))
        · next hb =>
          have hd := hd.trans (decodeOp_plain (not_not.mp hop) hg hb _)
          split
          · next hidx => exact stepOn_cmd_illegal hr (hd.trans (if_pos hidx))
          · next hidx => exact stepOn_cmd_instr hr (hd.trans (if_neg hidx))

/-- Settles O5: the branches of `decodeEvent`. -/
theorem eventLabels : Obligations.EventLabels := by
  intro s ev
  split_ifs with htick hline
  · exact stepOn_event_instr (if_pos htick) s
  · exact stepOn_event_instr ((if_neg htick).trans (if_pos hline)) s
  · exact stepOn_event_illegal ((if_neg htick).trans (if_neg hline)) s

/-- Settles O3: the words evaluated, and the steps they decide. -/
theorem specWordsDecode : Obligations.SpecWordsDecode := by
  refine ⟨by decide, by decide, ?_, ?_⟩
  · intro s v hr hv
    simp only [List.mem_cons, List.not_mem_nil, or_false] at hv
    rcases hv with rfl | rfl | rfl | rfl <;> exact stepOn_cmd_illegal hr rfl
  · intro s hr hn
    exact (stepOn_cmd_instr hr rfl).trans (exec_gate_badIndex (g := 4#8) hr hn.le)

end Sys2Proof.Machine

/-! The command port (40_command_port.md): a step runs the decoded instruction, and what no instruction changes. -/

namespace Sys2Proof.Machine

/-- A step takes the next input off the list and does what that input does (60_exceptions.md R216). -/
theorem step_eq_stepOn {s : State} {inp : Input} {rest : List Input} (h : s.inputs = inp :: rest) :
    step s = stepOn inp { s with inputs := rest } := by
  rw [stepOn, ← h]

/-- Settles O6: the next input by `step_eq_stepOn`, then the rule of a command and that of an event. -/
theorem stepRunsDecodedInstruction : Obligations.StepRunsDecodedInstruction := by
  intro s i rest
  refine ⟨fun v hr hin hd => ?_, fun ev hin hd => ?_⟩
  · exact (step_eq_stepOn hin).trans (stepOn_cmd_instr (s := { s with inputs := rest }) hr hd)
  · exact (step_eq_stepOn hin).trans (stepOn_event_instr hd _)

/-- Inversion: a row of the opcode table that has an instruction is a word or a label that decodes to it (log 21). -/
theorem decodeTableWord_some {nbits w : Nat} {i : Instr} (h : decodeTableWord nbits w = some i) :
    ∃ e, tableEncoded nbits w = some e ∧ decode e = .instr i := by
  unfold decodeTableWord at h
  split at h
  · cases h
  · next e he =>
    split at h
    · next hd => exact ⟨e, he, hd.trans (congrArg Decoded.instr (Option.some.inj h))⟩
    · cases h

/-- The input of a row of the opcode table is the next one the block takes (log 14). -/
theorem step_withFetchWord {s : State} {nbits w : Nat} {inp : Input} (h : wordInput s.cfg nbits w = some inp) :
    step (s.withFetchWord nbits w) = stepOn inp s := by
  rw [State.withFetchWord, presentWord, h, stepOn]

/-- Settles O7: the row's word is written to CMD, or its label comes from the event's agent. -/
theorem tableWordIsRunNext : Obligations.TableWordIsRunNext := by
  intro s nbits w i hr h
  obtain ⟨e, he, hd⟩ := decodeTableWord_some h
  cases e with
  | command v =>
    have hin : wordInput s.cfg nbits w = some (cmdInput s.cfg v) := by rw [wordInput, he]; rfl
    exact (step_withFetchWord hin).trans (stepOn_cmd_instr hr hd)
  | event ev =>
    have hin : wordInput s.cfg nbits w = some (.event ev) := by rw [wordInput, he]
    exact (step_withFetchWord hin).trans (stepOn_event_instr hd s)

/-- NOP changes nothing, halted or not (40_command_port.md R101, R104). -/
theorem exec_nop (s : State) : exec .nop s = .next s := congrArg Host.Outcome.next (ite_self s)

/-- Settles O8: `decodeCommand_plain` at NOP's opcode, whose word is the one with RSV and IDX both 0. -/
theorem nopCommand : Obligations.NopCommand := by
  intro s
  refine ⟨exec_nop s, fun v hr hop => ?_⟩
  have hd := decodeCommand_plain hop rfl
  split
  · next hz => exact (stepOn_cmd_instr hr (hd.trans (if_pos hz))).trans (exec_nop s)
  · next hz => exact stepOn_cmd_illegal hr (hd.trans (if_neg hz))

/-- What the meaning of `i` leaves unchanged: ARGA, ARGB (40_command_port.md R103), HALTED (60_exceptions.md R214) and the
model's own fields (log 1, 5, 7) always, RESULT except in the six commands of R102, ERR and ECAUSE except in a GATE or
GATESET whose index names no slot (60_exceptions.md R211, R212). -/
structure MeaningKeeps (i : Instr) (s t : State) : Prop where
  cfg : t.cfg = s.cfg
  inputs : t.inputs = s.inputs
  readData : t.readData = s.readData
  arga : t.arga = s.arga
  argb : t.argb = s.argb
  halted : t.halted = s.halted
  result : writesResult i = false → t.result = s.result
  error : i.wf s.cfg = true → t.err = s.err ∧ t.ecause = s.ecause

theorem meaningKeeps_self (i : Instr) (s : State) : MeaningKeeps i s s :=
  ⟨rfl, rfl, rfl, rfl, rfl, rfl, fun _ => rfl, fun _ => ⟨rfl, rfl⟩⟩

/-- The frame of all twelve meanings. -/
theorem exec_keeps {i : Instr} {s t : State} (h : exec i s = .next t) : MeaningKeeps i s t := by
  cases hr : s.halted with
  | true =>
    rw [exec_halted hr] at h
    injection h with h
    exact h ▸ meaningKeeps_self i s
  | false =>
    have hself := meaningKeeps_self i s
    cases i with
    | nop | dlyset | tick =>
      obtain rfl := eq_of_whenRunning hr h
      exact { hself with }
    | diff | elapsed =>
      obtain rfl := eq_of_whenRunning hr h
      exact { hself with result := nofun }
    | gate g =>
      rcases execGate_next_cases hr h with ⟨_, _, rfl⟩ | ⟨_, _, rfl⟩ | ⟨hg, rfl⟩
      · exact { hself with result := nofun }
      · exact { hself with result := nofun }
      · exact { hself with error := fun hw => absurd (of_decide_eq_true hw) (Nat.not_lt.mpr hg) }
    | gateset g =>
      rcases execGateset_next_cases hr h with ⟨_, rfl⟩ | ⟨hg, rfl⟩
      · exact { hself with }
      · exact { hself with error := fun hw => absurd (of_decide_eq_true hw) (Nat.not_lt.mpr hg) }
    | bren on =>
      rcases execBren_next_cases hr h with ⟨_, _, rfl⟩ | ⟨_, rfl⟩ <;> exact { hself with }
    | brstep =>
      rcases execBrstep_next_cases hr h with ⟨_, rfl⟩ | ⟨_, rfl⟩
      · exact { hself with result := nofun }
      · rw [waveStep_frame]
        exact { hself with result := nofun }
    | btnpoll =>
      rcases execBtnpoll_next_cases hr h with ⟨_, _, rfl⟩ | ⟨_, _, rfl⟩ | ⟨_, _, rfl⟩ | ⟨_, _, rfl⟩ <;>
        exact { hself with result := nofun }
    | btnconf =>
      rcases execBtnconf_next_cases hr h with ⟨_, _, _, rfl⟩ | ⟨_, _, _, rfl⟩ | ⟨_, rfl⟩ <;>
        exact { hself with result := nofun }
    | line v =>
      rcases execLine_next_cases hr h with ⟨_, _, _, rfl⟩ | ⟨_, rfl⟩ <;> exact { hself with }

/-- Settles O22: `exec_keeps`. -/
theorem meaningsFrame : Obligations.MeaningsFrame := by
  intro i s t h
  have hk := exec_keeps h
  exact ⟨⟨hk.cfg, hk.inputs, hk.readData, hk.arga, hk.argb, hk.halted⟩, hk.result, hk.error⟩

theorem wordOf_of_encode {i : Instr} {v : Word} (h : encode i = .command v) : wordOf i = v := by
  rw [wordOf, h]

/-- Inversion: a step other than the reset runs a meaning, which writes RESULT only if the host wrote its command word, or
is a host access, which reaches ARGA, ARGB, the value read, ERR and ECAUSE only. -/
theorem stepOn_runs_or_access {inp : Input} {s t : State} (h : stepOn inp s = .next t) (hne : ∀ ok, inp ≠ .reset ok) :
    (∃ i, exec i s = .next t ∧ (writesResult i = true → inp = cmdInput s.cfg (wordOf i))) ∨
    (∃ a b d e k, t = { s with arga := a, argb := b, readData := d, err := e, ecause := k }) := by
  rcases stepOn_cases h with ⟨ok, hi, _⟩ | ⟨_, hx⟩ | ⟨v, _, hx⟩ | ⟨v, i, _, hi, hd, hx⟩ | ⟨a, b, d, _, _, rfl⟩ |
    ⟨c, d, _, _, _, rfl⟩
  · exact absurd hi (hne ok)
  · exact .inl ⟨.tick, hx, nofun⟩
  · exact .inl ⟨.line v, hx, nofun⟩
  · exact .inl ⟨i, hx, fun _ => wordOf_of_encode (encode_of_decodeCommand hd) ▸ hi⟩
  · exact .inr ⟨a, b, d, s.err, s.ecause, rfl⟩
  · exact .inr ⟨s.arga, s.argb, d, _, _, rfl⟩

/-- Every step but the reset keeps the parameters (00_scope.md R6) and HALTED (60_exceptions.md R214). -/
theorem stepOn_keeps_cfg_halted {inp : Input} {s t : State} (h : stepOn inp s = .next t)
    (hne : ∀ ok, inp ≠ .reset ok) : t.cfg = s.cfg ∧ t.halted = s.halted := by
  rcases stepOn_runs_or_access h hne with ⟨_, hx, _⟩ | ⟨_, _, _, _, _, rfl⟩
  · exact ⟨(exec_keeps hx).cfg, (exec_keeps hx).halted⟩
  · exact ⟨rfl, rfl⟩

/-- RESULT is kept by every step but the reset and the six commands of 40_command_port.md R102. -/
theorem stepOn_keeps_result {inp : Input} {s t : State} (h : stepOn inp s = .next t) (hne : ∀ ok, inp ≠ .reset ok)
    (hw : ∀ i, writesResult i = true → inp ≠ cmdInput s.cfg (wordOf i)) : t.result = s.result := by
  rcases stepOn_runs_or_access h hne with ⟨i, hx, hi⟩ | ⟨_, _, _, _, _, rfl⟩
  · exact (exec_keeps hx).result (Bool.eq_false_iff.mpr fun hwi => hw i hwi (hi hwi))
  · rfl

section Halted
/-! While HALTED = 1 (60_exceptions.md R214, 20_memory.md R60). -/

variable {s : State} (hh : s.halted = true)
include hh

theorem stepOn_event_halted {ev : BitVec 3} (hev : namesEvent ev = true) : stepOn (.event ev) s = .next s := by
  rcases stepOn_event_cases ev s with ⟨_, e⟩ | ⟨_, _, e⟩ | ⟨hn, _⟩
  · exact e.trans (exec_halted hh _)
  · exact e.trans (exec_halted hh _)
  · simp [hev] at hn

theorem stepOn_read_halted (addr size : Nat) : ∃ v, stepOn (.read addr size) s = .next { s with readData := v } := by
  rcases stepOn_read_cases addr size s with ⟨v, _, e⟩ | ⟨_, _, e⟩ | ⟨_, hr, _⟩
  · exact ⟨v, e⟩
  · exact ⟨0, e⟩
  · simp [hh] at hr

/-- An illegal read returns 0 and raises no error (20_memory.md R52, R60). -/
theorem stepOn_read_illegal_halted (hc : s.cfg.Legal) {addr size : Nat} (hl : ¬ ReadLegal s.cfg addr size) :
    stepOn (.read addr size) s = .next { s with readData := 0 } := by
  rcases stepOn_read_cases addr size s with ⟨v, hv, _⟩ | ⟨_, _, e⟩ | ⟨_, hr, _⟩
  · exact absurd ((legalRead_isSome_iff hc addr size).mp (by simp [hv])) hl
  · exact e
  · simp [hh] at hr

end Halted

/-- Settles O27: the rule of each kind of step while HALTED = 1; the reset sets HALTED, and `stepOn_keeps_cfg_halted` is
about every other step. -/
theorem haltedChangesNothing : Obligations.HaltedChangesNothing := by
  refine ⟨fun s hh => ?_, fun s t inp h => ?_⟩
  · exact ⟨fun _ hev => stepOn_event_halted hh hev, stepOn_write_halted hh,
      fun _ _ hc hl => stepOn_read_illegal_halted hh hc hl, stepOn_read_halted hh, exec_halted hh⟩
  · cases inp with
    | reset ok =>
      injection h with h
      exact h ▸ rfl
    | event ev | read addr size | write addr size v => exact (stepOn_keeps_cfg_halted h nofun).2

/-- What every step over the inputs of a list keeps holds at the end of a run that has an end. -/
theorem runOn_next_keeps {P : State → Prop} {ins : List Input} {s t : State} (h0 : P s)
    (hstep : ∀ inp ∈ ins, ∀ u v, P u → stepOn inp u = .next v → P v) (h : runOn ins s = .next t) : P t := by
  induction ins generalizing s with
  | nil =>
    injection h with h
    exact h ▸ h0
  | cons inp rest ih =>
    rw [runOn] at h
    split at h
    · next u hu =>
      exact ih (hstep inp (by simp) s u h0 hu) (fun i hi => hstep i (by simp [hi])) h
    · cases h
    · cases h

theorem ne_reset_of_agentStep {inp : Input} (h : inp.agentStep = true) (ok : Bool) : inp ≠ .reset ok := by
  rintro rfl
  cases h

/-- Settles O41: along the run the parameters, and so the words of the six commands, stay those at the start, and each step
keeps RESULT. -/
theorem resultKeptUntilNextWriter : Obligations.ResultKeptUntilNextWriter := by
  intro ins s t hagent hwriters h
  have hkept : t.cfg = s.cfg ∧ t.result = s.result := by
    refine runOn_next_keeps (P := fun u => u.cfg = s.cfg ∧ u.result = s.result) ⟨rfl, rfl⟩ ?_ h
    rintro inp hin u v ⟨hcfg, hres⟩ hstep
    have hne := ne_reset_of_agentStep (hagent inp hin)
    have hw : ∀ i, writesResult i = true → inp ≠ cmdInput u.cfg (wordOf i) := hcfg ▸ hwriters inp hin
    exact ⟨(stepOn_keeps_cfg_halted hstep hne).1.trans hcfg, (stepOn_keeps_result hstep hne hw).trans hres⟩
  exact hkept.2

end Sys2Proof.Machine

/-! The tick event and the delay countdown (41_tick_delay.md). -/

namespace Sys2Proof.Machine

/-- A possible input has a step (60_exceptions.md R216). -/
theorem stepOn_next_of_possible {inp : Input} (hp : inp.possible = true) (s : State) : ∃ t, stepOn inp s = .next t := by
  cases inp with
  | reset ok => exact ⟨_, stepOn_reset ok s⟩
  | read addr size => exact ⟨_, stepOn_read addr size s⟩
  | event ev =>
    rcases stepOn_event_cases ev s with ⟨_, e⟩ | ⟨v, _, e⟩ | ⟨hn, _⟩
    · exact e ▸ exec_next .tick s
    · exact e ▸ exec_next (.line v) s
    · exact absurd (hn.symm.trans hp) nofun
  | write addr size v =>
    rcases stepOn_write_cases addr size v s with ⟨_, e⟩ | ⟨_, _, e⟩ | ⟨_, _, e⟩ | ⟨i, _, _, _, e⟩ | ⟨_, _, _, _, e⟩ |
      ⟨_, _, e⟩
    exacts [⟨_, e⟩, ⟨_, e⟩, ⟨_, e⟩, e ▸ exec_next i s, ⟨_, e⟩, ⟨_, e⟩]

theorem possible_of_agentStep {inp : Input} (ha : inp.agentStep = true) : inp.possible = true := by
  cases inp with
  | reset ok => rfl
  | event ev | read addr size | write addr size v => exact ha

theorem tickCount_cons_tick (ins : List Input) : tickCount (tickInput :: ins) = 1 + tickCount ins := by
  rw [tickCount, List.countP_cons_of_pos (by simp), Nat.add_comm, tickCount]

theorem tickCount_cons_of_ne {inp : Input} (h : inp ≠ tickInput) (ins : List Input) :
    tickCount (inp :: ins) = tickCount ins :=
  List.countP_cons_of_neg (by simpa using h)

/-- DELAY counts down and stays at 0 (41_tick_delay.md R120). -/
theorem execTick_running {s : State} (hr : s.halted = false) :
    execTick s = .next { s with tick := (s.tick + 1) % 2 ^ s.cfg.w, delay := s.delay - 1 } := by
  have hd : (if s.delay ≠ 0 then s.delay - 1 else s.delay) = s.delay - 1 := by split <;> omega
  rw [execTick, whenRunning_running hr, hd, modW]

/-- DLYSET overwrites whatever budget was left (41_tick_delay.md R122, R126). -/
theorem exec_dlyset_running {s : State} (hr : s.halted = false) :
    exec .dlyset s = .next { s with delay := s.arga.toNat % 2 ^ s.cfg.w } :=
  whenRunning_running hr _

/-- Of all agent steps only the TICK event and the word of DLYSET write DELAY (10_state.md R36). -/
theorem stepOn_keeps_delay {inp : Input} {s t : State} (ha : inp.agentStep = true) (htick : inp ≠ tickInput)
    (hne : inp ≠ cmdInput s.cfg 0x01) (h : stepOn inp s = .next t) : t.delay = s.delay := by
  cases inp with
  | reset ok => cases ha
  | read addr size | write addr size v => exact (stepOn_access_hostKeeps ha nofun h).2 hne
  | event ev =>
    rcases stepOn_event_cases ev s with ⟨hi, _⟩ | ⟨v, _, e⟩ | ⟨_, e⟩
    · exact absurd hi htick
    · rw [(execLine_frame (e.symm.trans h)).1]
    · cases e.symm.trans h

/-- However the agents interleave, each TICK event takes 1 off DELAY while it lasts, and nothing else but DLYSET writes it
(41_tick_delay.md R123, R124). -/
theorem runOn_delay {ins : List Input} {s : State} (hr : s.halted = false)
    (hins : ∀ inp ∈ ins, inp.agentStep = true ∧ inp ≠ cmdInput s.cfg 0x01) :
    ∃ t, runOn ins s = .next t ∧ t.cfg = s.cfg ∧ t.delay = s.delay - tickCount ins := by
  induction ins generalizing s with
  | nil => exact ⟨s, rfl, rfl, rfl⟩
  | cons inp rest ih =>
    obtain ⟨⟨ha, hne⟩, hrest⟩ := List.forall_mem_cons.mp hins
    obtain ⟨u, hu⟩ := stepOn_next_of_possible (possible_of_agentStep ha) s
    obtain ⟨hcfg, hhalt⟩ := stepOn_keeps_cfg_halted hu (ne_reset_of_agentStep ha)
    obtain ⟨t, ht, htcfg, hdelay⟩ := ih (hhalt.trans hr) (hcfg ▸ hrest)
    refine ⟨t, by rw [runOn, hu]; exact ht, htcfg.trans hcfg, hdelay.trans ?_⟩
    by_cases htick : inp = tickInput
    · subst htick
      obtain rfl := Host.Outcome.next.inj ((execTick_running hr).symm.trans hu)
      rw [tickCount_cons_tick, Nat.sub_sub]
    · rw [stepOn_keeps_delay ha htick hne hu, tickCount_cons_of_ne htick]

/-- A W-bit value reads as 0 only if it is 0. -/
theorem zextW_eq_zero_iff {w v : Nat} (hw : w ≤ 32) (hv : v < 2 ^ w) : zextW w v = 0 ↔ v = 0 := by
  rw [BitVec.toNat_eq, zextW_toNat hw, Nat.mod_eq_of_lt hv]
  rfl

/-- Settles O38: `runOn_delay` from the state DLYSET leaves, and the read of DELAY, a W-bit value, in the last state. -/
theorem delayEndsAtNthTick : Obligations.DelayEndsAtNthTick := by
  rintro s n ins ⟨⟨-, hw⟩, -⟩ hr hn hins
  have hset := (stepOn_cmd_instr (v := 0x01) hr rfl).trans (exec_dlyset_running hr)
  rw [← hn] at hset
  obtain ⟨t, ht, hcfg, hdelay⟩ := runOn_delay (s := { s with delay := n }) hr hins
  have hlt : t.delay < 2 ^ t.cfg.w := by
    rw [hdelay, hcfg]
    exact (Nat.sub_le _ _).trans_lt (hn ▸ Nat.mod_lt _ (two_pow_pos _))
  have hread := stepOn_rdInput (s := t) (off := 0x04) (by decide) (by decide) rfl rfl
  rw [hcfg] at hread
  refine ⟨t, _, by rw [runOn, hset]; exact ht, hdelay, hread, ?_⟩
  rw [zextW_eq_zero_iff hw (hcfg ▸ hlt), hdelay, Nat.sub_eq_zero_iff_le]

/-- Settles O9: the halted block keeps its state; in a running one DELAY - 1 is also 0 from 0. -/
theorem tickEvent : Obligations.TickEvent := by
  intro s
  refine ⟨?_, rfl, fun hr hd t h => ?_⟩
  · have hd : (if s.delay = 0 then 0 else s.delay - 1) = s.delay - 1 := by split <;> omega
    rw [hd]
    split
    · next hh => exact exec_halted hh .tick
    · next hr => exact execTick_running (Bool.eq_false_of_not_eq_true hr)
  · obtain rfl := Host.Outcome.next.inj ((execTick_running hr).symm.trans h)
    simp [dlyBusy, hd]

/-- Settles O10: `decodeCommand_plain` at DLYSET's opcode. -/
theorem dlysetCommand : Obligations.DlysetCommand := by
  intro s hr
  refine ⟨exec_dlyset_running hr, fun t h => ?_, fun v hop => ?_⟩
  · obtain rfl := Host.Outcome.next.inj ((exec_dlyset_running hr).symm.trans h)
    exact decide_eq_true_iff
  · have hd := decodeCommand_plain hop rfl
    split
    · next hz => exact (stepOn_cmd_instr hr (hd.trans (if_pos hz))).trans (exec_dlyset_running hr)
    · next hz => exact stepOn_cmd_illegal hr (hd.trans (if_neg hz))

/-- k TICK events in a row (41_tick_delay.md R120, R121). -/
theorem runOn_replicate_tick {s : State} (hr : s.halted = false) (ht : s.tick < 2 ^ s.cfg.w) (k : Nat) :
    runOn (List.replicate k tickInput) s =
      .next { s with tick := (s.tick + k) % 2 ^ s.cfg.w, delay := s.delay - k } := by
  induction k generalizing s with
  | zero => rw [Nat.add_zero, Nat.mod_eq_of_lt ht]; rfl
  | succ k ih =>
    rw [List.replicate_succ, runOn, stepOn_tick, execTick_running hr]
    refine (ih (s := { s with tick := (s.tick + 1) % 2 ^ s.cfg.w, delay := s.delay - 1 }) hr
      (Nat.mod_lt _ (two_pow_pos _))).trans ?_
    simp only [Nat.mod_add_mod, Nat.add_assoc, Nat.sub_sub, Nat.add_comm 1 k]

/-- Settles O37: `runOn_replicate_tick`, whose TICK after 2^W events is the first one modulo 2^W. -/
theorem ticksInARow : Obligations.TicksInARow := by
  intro s k hr ht
  refine ⟨runOn_replicate_tick hr ht k, ?_⟩
  rintro rfl
  rw [Nat.add_mod_right, Nat.mod_eq_of_lt ht]

end Sys2Proof.Machine

/-! The interval comparator and the gates (42_interval.md). -/

namespace Sys2Proof.Machine

section Running
/-! What a running block does with a word written to CMD, once its opcode is known (30_encoding.md R83, R84). -/

variable {s : State} (hr : s.halted = false)
include hr

/-- The words of an opcode whose IDX must be 0. -/
theorem stepOn_cmd_plain {v : Word} {op : BitVec 8} {i : Instr} (hop : v.extractLsb' 0 8 = op)
    (hp : plainOp op plainOpcodes = some i) :
    stepOn (cmdInput s.cfg v) s = if v.extractLsb' 8 24 = 0#24 then exec i s else .next (errState 1 s) := by
  have hd := decodeCommand_plain hop hp
  split
  · next hz => exact stepOn_cmd_instr hr (hd.trans (if_pos hz))
  · next hz => exact stepOn_cmd_illegal hr (hd.trans (if_neg hz))

/-- The words of GATE and GATESET. -/
theorem stepOn_cmd_gates {v : Word} (hop : v.extractLsb' 0 8 = 0x0A#8 ∨ v.extractLsb' 0 8 = 0x0B#8) :
    stepOn (cmdInput s.cfg v) s = if v.extractLsb' 16 16 = 0#16 then
      exec (if v.extractLsb' 0 8 = 0x0A#8 then .gate (v.extractLsb' 8 8) else .gateset (v.extractLsb' 8 8)) s
      else .next (errState 1 s) := by
  have hd := decodeCommand_gates hop
  split
  · next hz => exact stepOn_cmd_instr hr (hd.trans (if_pos hz))
  · next hz => exact stepOn_cmd_illegal hr (hd.trans (if_neg hz))

end Running

/-! ### Elapsed ticks along a run -/

/-- Of all agent steps only the TICK event writes TICK (10_state.md R36). -/
theorem stepOn_keeps_tick {inp : Input} {s t : State} (ha : inp.agentStep = true) (htick : inp ≠ tickInput)
    (h : stepOn inp s = .next t) : t.tick = s.tick := by
  cases inp with
  | reset ok => cases ha
  | read addr size | write addr size v => exact (stepOn_access_hostKeeps ha nofun h).1.tick
  | event ev =>
    rcases stepOn_event_cases ev s with ⟨hi, _⟩ | ⟨v, _, e⟩ | ⟨_, e⟩
    · exact absurd hi htick
    · rw [(execLine_frame (e.symm.trans h)).1]
    · cases e.symm.trans h

theorem tickCount_cons (inp : Input) (ins : List Input) :
    tickCount (inp :: ins) = tickCount [inp] + tickCount ins :=
  List.countP_append (l₁ := [inp])

theorem tickCount_singleton_of_ne {inp : Input} (h : inp ≠ tickInput) : tickCount [inp] = 0 :=
  tickCount_cons_of_ne h []

/-- An agent step counts itself in TICK, modulo 2^W, if it is a TICK event (41_tick_delay.md R120). -/
theorem stepOn_tick_add {inp : Input} {s t : State} (hr : s.halted = false) (hlt : s.tick < 2 ^ s.cfg.w)
    (ha : inp.agentStep = true) (h : stepOn inp s = .next t) :
    t.tick = (s.tick + tickCount [inp]) % 2 ^ s.cfg.w := by
  by_cases htick : inp = tickInput
  · subst htick
    obtain rfl := Host.Outcome.next.inj ((execTick_running hr).symm.trans h)
    rfl
  · rw [stepOn_keeps_tick ha htick h, tickCount_singleton_of_ne htick, Nat.add_zero, Nat.mod_eq_of_lt hlt]

/-- However the agents interleave, TICK counts the TICK events of the run modulo 2^W (42_interval.md R140). -/
theorem runOn_tick_add {ins : List Input} {s : State} (hr : s.halted = false) (hlt : s.tick < 2 ^ s.cfg.w)
    (hins : ∀ inp ∈ ins, inp.agentStep = true) :
    ∃ t, runOn ins s = .next t ∧ t.cfg = s.cfg ∧ t.tick = (s.tick + tickCount ins) % 2 ^ s.cfg.w := by
  induction ins generalizing s with
  | nil => exact ⟨s, rfl, rfl, (Nat.mod_eq_of_lt hlt).symm⟩
  | cons inp rest ih =>
    obtain ⟨ha, hrest⟩ := List.forall_mem_cons.mp hins
    obtain ⟨u, hu⟩ := stepOn_next_of_possible (possible_of_agentStep ha) s
    obtain ⟨hcfg, hhalt⟩ := stepOn_keeps_cfg_halted hu (ne_reset_of_agentStep ha)
    have htick := stepOn_tick_add hr hlt ha hu
    have hult : u.tick < 2 ^ u.cfg.w := by
      rw [hcfg, htick]
      exact Nat.mod_lt _ (two_pow_pos _)
    obtain ⟨t, ht, htcfg, httick⟩ := ih (hhalt.trans hr) hult hrest
    refine ⟨t, by rw [runOn, hu]; exact ht, htcfg.trans hcfg, ?_⟩
    rw [httick, hcfg, htick, Nat.mod_add_mod, Nat.add_assoc, ← tickCount_cons]

/-- elapsed in the statements' integer form. -/
theorem elapsedSince_eq_wrapDiff (s : State) (ts : Nat) : elapsedSince s ts = wrapDiff s.cfg.w s.tick ts :=
  subW_eq_wrapDiff _ _ _

theorem elapsedSince_lt (s : State) (ts : Nat) : elapsedSince s ts < 2 ^ s.cfg.w := subW_lt _ _ _

/-- Settles O39: `runOn_tick_add`, and the difference of the two TICKs by `subW_add_ticks`. -/
theorem elapsedCountsTicks : Obligations.ElapsedCountsTicks := by
  intro s ins hr hlt hins
  obtain ⟨t, ht, hcfg, htick⟩ := runOn_tick_add hr hlt hins
  have hel : elapsedSince t s.tick = tickCount ins % 2 ^ s.cfg.w := by
    rw [elapsedSince, hcfg, htick, subW_add_ticks hlt]
  exact ⟨t, ht, elapsedSince_eq_wrapDiff _ _, hel, fun hc => hel.trans (Nat.mod_eq_of_lt hc)⟩

/-! ### DIFF and ELAPSED -/

/-- A yes-or-no RESULT is 1 for yes. -/
theorem flag_eq_one_iff {p : Prop} [Decidable p] : (if p then (1 : Word) else 0) = 1 ↔ p := by
  split <;> simp [*]

/-- A yes-or-no RESULT is 0 for no. -/
theorem flag_eq_zero_iff {p : Prop} [Decidable p] : (if p then (1 : Word) else 0) = 0 ↔ ¬ p := by
  split <;> simp [*]

/-- A difference of W bits is zero-extended whole. -/
theorem zextW_subW (w a b : Nat) : zextW w (subW w a b) = BitVec.ofNat 32 (wrapDiff w a b) := by
  rw [zextW, modW_of_lt (subW_lt w a b), subW_eq_wrapDiff]

/-- A timestamp one tick ahead of TICK is 2^W - 1 ticks old (42_interval.md R141). -/
theorem subW_succ {w a : Nat} (ha : a < 2 ^ w) : subW w a ((a + 1) % 2 ^ w) = 2 ^ w - 1 := by
  rw [subW_of_lt ha (Nat.mod_lt _ (two_pow_pos w))]
  rcases Nat.lt_or_eq_of_le (Nat.succ_le_of_lt ha) with hlt | heq
  · rw [Nat.mod_eq_of_lt hlt, if_neg (by omega)]
    omega
  · rw [Nat.succ_eq_add_one] at heq
    rw [heq, Nat.mod_self, if_pos (Nat.zero_le a)]
    omega

/-- DIFF writes the zero-extended elapsed time (42_interval.md R141). -/
theorem exec_diff_running {s : State} (hr : s.halted = false) :
    exec .diff s = .next { s with result := zextW s.cfg.w (subW s.cfg.w s.tick (s.arga.toNat % 2 ^ s.cfg.w)) } :=
  whenRunning_running hr _

/-- ELAPSED compares the elapsed time with the whole ARGB (42_interval.md R142). -/
theorem exec_elapsed_running {s : State} (hr : s.halted = false) :
    exec .elapsed s = .next { s with
      result := if s.argb.toNat ≤ elapsedSince s (s.arga.toNat % 2 ^ s.cfg.w) then 1 else 0 } := by
  refine (whenRunning_running hr _).trans ?_
  simp only [resultFlag, decide_eq_true_eq]
  rfl

/-- Settles O11: `exec_diff_running`; the corner cases are those of the difference of W-bit values. -/
theorem diffCommand : Obligations.DiffCommand := by
  rintro s ts hr ⟨⟨-, hw⟩, -⟩ hlt rfl
  refine ⟨zextW_subW _ _ _ ▸ exec_diff_running hr, fun t h => ?_, fun v hop => stepOn_cmd_plain hr hop rfl⟩
  obtain rfl := Host.Outcome.next.inj ((exec_diff_running hr).symm.trans h)
  simp only [zextW_toNat hw, Nat.mod_eq_of_lt (subW_lt _ _ _)]
  exact ⟨fun hts => by rw [hts, subW_self], fun hts => by rw [hts, subW_succ hlt]⟩

/-- Settles O12: `exec_elapsed_running`; elapsed is below 2^W, and 0 since the present TICK. -/
theorem elapsedCommand : Obligations.ElapsedCommand := by
  rintro s ts hr rfl
  refine ⟨elapsedSince_eq_wrapDiff s _ ▸ exec_elapsed_running hr, fun t h => ?_,
    fun v hop => stepOn_cmd_plain hr hop rfl⟩
  obtain rfl := Host.Outcome.next.inj ((exec_elapsed_running hr).symm.trans h)
  refine ⟨fun h0 => ?_, fun hbig => ?_, fun hts => ?_⟩
  · exact flag_eq_one_iff.mpr (h0 ▸ Nat.zero_le _)
  · exact flag_eq_zero_iff.mpr (Nat.not_le.mpr ((elapsedSince_lt s _).trans_le hbig))
  · have h0 : elapsedSince s (s.arga.toNat % 2 ^ s.cfg.w) = 0 := by rw [hts, elapsedSince, subW_self]
    rw [flag_eq_one_iff, h0, Nat.le_zero, BitVec.toNat_eq]
    rfl

/-- Settles O13: ELAPSED's RESULT is 1 for an interval of at most elapsed ticks, and elapsed is the difference without and
with a wraparound. -/
theorem elapsedIsNoNaiveForm : Obligations.ElapsedIsNoNaiveForm := by
  intro s ts hs hr hts
  have hlt := hs.tick_lt
  have htslt : ts < 2 ^ s.cfg.w := hts ▸ Nat.mod_lt _ (two_pow_pos _)
  have hel : elapsedSince s ts = if ts ≤ s.tick then s.tick - ts else s.tick + 2 ^ s.cfg.w - ts :=
    subW_of_lt hlt htslt
  refine ⟨_, exec_elapsed_running hr, fun hwrap => ?_, fun hle => ?_⟩ <;> rw [← hts]
  · rw [hel, if_neg (Nat.not_le.mpr hwrap)]
    refine ⟨flag_eq_one_iff, fun h => ⟨flag_eq_one_iff.mpr h, by omega⟩,
      fun h => ⟨flag_eq_one_iff.mpr (by omega), ?_⟩⟩
    rw [Nat.mod_eq_of_lt h]
    omega
  · rw [hel, if_pos hle]
    refine ⟨flag_eq_one_iff, fun hge h => ⟨flag_eq_zero_iff.mpr (by omega), ?_⟩⟩
    rw [Nat.mod_eq_sub_mod hge]
    exact (Nat.mod_le _ _).trans (by omega)

/-! ### GATE and GATESET -/

/-- GATE g on a slot that exists (42_interval.md R143). -/
theorem exec_gate_running {g : BitVec 8} {s : State} (hr : s.halted = false) (hg : g.toNat < s.cfg.nGates) :
    exec (.gate g) s = .next (if s.arga.toNat ≤ elapsedSince s (readGate s g.toNat) then
      setResult 1 (setGate g.toNat s.tick s) else setResult 0 s) := by
  obtain ⟨t, ht⟩ := exec_next (.gate g) s
  rw [ht]
  rcases execGate_next_cases hr ht with ⟨_, hd, rfl⟩ | ⟨_, hd, rfl⟩ | ⟨hn, _⟩
  · rw [if_pos hd]
  · rw [if_neg (Nat.not_le.mpr hd)]
  · exact absurd hg (Nat.not_lt.mpr hn)

/-- GATE g writes RESULT 1 when its threshold is reached, and else 0 (42_interval.md R143). -/
theorem exec_gate_result {g : BitVec 8} {s t : State} (hr : s.halted = false) (hg : g.toNat < s.cfg.nGates)
    (h : exec (.gate g) s = .next t) :
    t.result = if s.arga.toNat ≤ elapsedSince s (readGate s g.toNat) then 1 else 0 := by
  obtain rfl := Host.Outcome.next.inj ((exec_gate_running hr hg).symm.trans h)
  exact apply_ite State.result _ _ _

/-- GATESET g on a slot that exists (42_interval.md R144). -/
theorem exec_gateset_running {g : BitVec 8} {s : State} (hr : s.halted = false) (hg : g.toNat < s.cfg.nGates) :
    exec (.gateset g) s = .next (setGate g.toNat (s.arga.toNat % 2 ^ s.cfg.w) s) :=
  (whenRunning_running hr _).trans (congrArg Host.Outcome.next (if_pos (decide_eq_true hg)))

/-- GATE g writes no other slot (42_interval.md R143). -/
theorem exec_gate_keeps_other_slots {g : BitVec 8} {s t : State} {k : Nat} (hr : s.halted = false)
    (h : exec (.gate g) s = .next t) (hk : k ≠ g.toNat) : readGate t k = readGate s k := by
  rcases execGate_next_cases hr h with ⟨_, _, rfl⟩ | ⟨_, _, rfl⟩ | ⟨_, rfl⟩
  · exact readGate_setGate_of_ne hk s.tick s
  · rfl
  · rfl

/-- Settles O14: the rules of GATE on a slot that exists and on one that does not; elapsed is below 2^W. -/
theorem gateCommand : Obligations.GateCommand := by
  intro s g hr
  refine ⟨fun hg => elapsedSince_eq_wrapDiff s _ ▸ exec_gate_running hr hg, exec_gate_badIndex hr,
    fun t h => ⟨fun k hk => exec_gate_keeps_other_slots hr h hk, fun hg => ?_⟩, ?_⟩
  · rw [exec_gate_result hr hg h]
    refine ⟨fun h0 => ?_, fun hbig => ?_⟩
    · exact flag_eq_one_iff.mpr (h0 ▸ Nat.zero_le _)
    · exact flag_eq_zero_iff.mpr (Nat.not_le.mpr ((elapsedSince_lt s _).trans_le hbig))
  · rintro v hop rfl
    rw [stepOn_cmd_gates hr (.inl hop), if_pos hop]

/-- Settles O15: the rules of GATESET on a slot that exists and on one that does not. -/
theorem gatesetCommand : Obligations.GatesetCommand := by
  intro s g hr
  refine ⟨exec_gateset_running hr, exec_gateset_badIndex hr, ?_⟩
  rintro v hop rfl
  have hne : v.extractLsb' 0 8 ≠ 0x0A#8 := by
    rw [hop]
    decide
  rw [stepOn_cmd_gates hr (.inr hop), if_neg hne]

/-! ### A gate slot along a run (42_interval.md R145) -/

/-- A meaning other than GATESET g leaves slot g as it is, or is GATE g, fires and records TICK. -/
theorem exec_gateSlot {i : Instr} {g : BitVec 8} {s t : State} (hs : s.Inv) (hr : s.halted = false)
    (hset : i ≠ .gateset g) (h : exec i s = .next t) :
    readGate t g.toNat = readGate s g.toNat ∨
    (i = .gate g ∧ g.toNat < s.cfg.nGates ∧ s.arga.toNat ≤ elapsedSince s (readGate s g.toNat) ∧
      readGate t g.toNat = s.tick) := by
  cases i with
  | gate k =>
    by_cases hk : g = k
    · subst hk
      rcases execGate_next_cases hr h with ⟨hg, hd, rfl⟩ | ⟨_, _, rfl⟩ | ⟨_, rfl⟩
      · exact .inr ⟨rfl, hg, hd, readGate_setGate_same (hs.gates.symm ▸ hg) s.tick⟩
      · exact .inl rfl
      · exact .inl rfl
    · exact .inl (exec_gate_keeps_other_slots hr h (BitVec.toNat_ne.mp hk))
  | gateset k =>
    rcases execGateset_next_cases hr h with ⟨_, rfl⟩ | ⟨_, rfl⟩
    · have hk : g.toNat ≠ k.toNat := BitVec.toNat_ne.mp fun hk => hset (hk ▸ rfl)
      exact .inl (readGate_setGate_of_ne hk _ s)
    · exact .inl rfl
  | nop | dlyset | diff | elapsed | tick =>
    obtain rfl := eq_of_whenRunning hr h
    exact .inl rfl
  | bren on =>
    rcases execBren_next_cases hr h with ⟨_, _, rfl⟩ | ⟨_, rfl⟩ <;> exact .inl rfl
  | brstep =>
    rcases execBrstep_next_cases hr h with ⟨_, rfl⟩ | ⟨_, rfl⟩
    · exact .inl rfl
    · rw [waveStep_frame]
      exact .inl rfl
  | btnpoll =>
    rcases execBtnpoll_next_cases hr h with ⟨_, _, rfl⟩ | ⟨_, _, rfl⟩ | ⟨_, _, rfl⟩ | ⟨_, _, rfl⟩ <;> exact .inl rfl
  | btnconf =>
    rcases execBtnconf_next_cases hr h with ⟨_, _, _, rfl⟩ | ⟨_, _, _, rfl⟩ | ⟨_, rfl⟩ <;> exact .inl rfl
  | line v =>
    rcases execLine_next_cases hr h with ⟨_, _, _, rfl⟩ | ⟨_, rfl⟩ <;> exact .inl rfl

/-- A firing poll is the word of GATE g at a slot whose threshold is reached (42_interval.md R143). -/
theorem firingPoll_eq_true_iff {g : BitVec 8} {inp : Input} {s : State} :
    firingPoll g inp s = true ↔ inp = cmdInput s.cfg (wordOf (.gate g)) ∧ s.halted = false ∧
      g.toNat < s.cfg.nGates ∧ s.arga.toNat ≤ elapsedSince s (readGate s g.toNat) := by
  rw [elapsedSince_eq_wrapDiff]
  exact decide_eq_true_iff

/-- An agent step other than the word of GATESET g leaves slot g as it is, or is a firing poll of it and records TICK. -/
theorem stepOn_gateSlot {inp : Input} {g : BitVec 8} {s t : State} (hs : s.Inv) (hr : s.halted = false)
    (ha : inp.agentStep = true) (hset : inp ≠ cmdInput s.cfg (wordOf (.gateset g))) (h : stepOn inp s = .next t) :
    readGate t g.toNat = readGate s g.toNat ∨ (firingPoll g inp s = true ∧ readGate t g.toNat = s.tick) := by
  rcases stepOn_cases h with ⟨ok, rfl, _⟩ | ⟨_, hx⟩ | ⟨v, _, hx⟩ | ⟨v, i, _, hi, hd, hx⟩ | ⟨_, _, _, _, _, rfl⟩ |
    ⟨_, _, _, _, _, rfl⟩
  · cases ha
  · exact .inl ((exec_gateSlot (i := .tick) hs hr nofun hx).resolve_right nofun)
  · exact .inl ((exec_gateSlot (i := .line v) hs hr nofun hx).resolve_right nofun)
  · have hv := wordOf_of_encode (encode_of_decodeCommand hd)
    have hne : i ≠ .gateset g := by
      rintro rfl
      exact hset (hv ▸ hi)
    rcases exec_gateSlot hs hr hne hx with hkept | ⟨rfl, hg, hdue, hrec⟩
    · exact .inl hkept
    · exact .inr ⟨firingPoll_eq_true_iff.mpr ⟨hv ▸ hi, hr, hg, hdue⟩, hrec⟩
  · exact .inl rfl
  · exact .inl rfl

/-- A running block with the parameters `c` whose slot g holds `last`, the TICK of `age` TICK events ago. -/
structure GateAge (c : Config) (g : BitVec 8) (last age : Nat) (s : State) : Prop where
  inv : s.Inv
  running : s.halted = false
  cfg : s.cfg = c
  slot : readGate s g.toNat = last
  tick : s.tick = (last + age) % 2 ^ c.w

section GateAge

variable {c : Config} {g : BitVec 8} {last age : Nat} {s : State} (hs : GateAge c g last age s)
include hs

theorem gateAge_last_lt : last < 2 ^ c.w := by
  have h := readGate_lt (g := g.toNat) (two_pow_pos _) hs.inv.gates_lt
  rwa [hs.slot, hs.cfg] at h

/-- The age of the slot is what GATE g compares, modulo 2^W (42_interval.md R140). -/
theorem elapsedSince_of_gateAge : elapsedSince s (readGate s g.toNat) = age % 2 ^ c.w := by
  rw [elapsedSince, hs.cfg, hs.tick, hs.slot, subW_add_ticks (gateAge_last_lt hs)]

/-- GATE g fires exactly when the age, modulo 2^W, has reached the threshold. -/
theorem exec_gate_result_of_gateAge (hg : g.toNat < c.nGates) {t : State} (h : exec (.gate g) s = .next t) :
    t.result = if s.arga.toNat ≤ age % 2 ^ c.w then 1 else 0 := by
  rw [exec_gate_result hs.running (hs.cfg.symm ▸ hg) h, elapsedSince_of_gateAge hs]

/-- An agent step other than GATESET g ages the slot by its TICK event, if GATE g does not fire in it; at age 0 it may
fire, since it records the TICK the slot holds. -/
theorem gateAge_stepOn {inp : Input} {t : State} (ha : inp.agentStep = true)
    (hset : inp ≠ cmdInput c (wordOf (.gateset g))) (hfire : firingPoll g inp s = true → age = 0)
    (h : stepOn inp s = .next t) : GateAge c g last (age + tickCount [inp]) t := by
  obtain ⟨hcfg, hhalt⟩ := stepOn_keeps_cfg_halted h (ne_reset_of_agentStep ha)
  refine ⟨stepOn_keeps_inv hs.inv h, hhalt.trans hs.running, hcfg.trans hs.cfg, ?_, ?_⟩
  · rcases stepOn_gateSlot hs.inv hs.running ha (hs.cfg.symm ▸ hset) h with hkept | ⟨hf, hrec⟩
    · exact hkept.trans hs.slot
    · rw [hrec, hs.tick, hfire hf, Nat.add_zero, Nat.mod_eq_of_lt (gateAge_last_lt hs)]
  · rw [stepOn_tick_add hs.running hs.inv.tick_lt ha h, hs.cfg, hs.tick, Nat.mod_add_mod, Nat.add_assoc]

/-- Without a TICK event and GATESET g the slot keeps its value and its age, if it is of age 0 or is not polled. -/
theorem gateAge_runOn_of_no_tick {ins : List Input}
    (hins : ∀ inp ∈ ins, inp.agentStep = true ∧ inp ≠ tickInput ∧ inp ≠ cmdInput c (wordOf (.gateset g)))
    (hpoll : age = 0 ∨ ∀ inp ∈ ins, inp ≠ cmdInput c (wordOf (.gate g))) :
    ∃ t, runOn ins s = .next t ∧ GateAge c g last age t := by
  refine runOn_keeps hs fun inp hin u hu => ?_
  obtain ⟨ha, htick, hset⟩ := hins inp hin
  obtain ⟨t, ht⟩ := stepOn_next_of_possible (possible_of_agentStep ha) u
  have hfire : firingPoll g inp u = true → age = 0 := fun hf =>
    hpoll.resolve_right fun hne => hne inp hin (hu.cfg ▸ (firingPoll_eq_true_iff.mp hf).1)
  have hnext := gateAge_stepOn hu ha hset hfire ht
  rw [tickCount_singleton_of_ne htick] at hnext
  exact ⟨t, ht, hnext⟩

/-- One more TICK event ages the slot by one tick, and then without TICK, GATE g and GATESET g it keeps its age. -/
theorem gateAge_runOn_tick_cons {ins : List Input}
    (hins : ∀ inp ∈ ins, inp.agentStep = true ∧ inp ≠ tickInput ∧ inp ≠ cmdInput c (wordOf (.gate g)) ∧
      inp ≠ cmdInput c (wordOf (.gateset g))) :
    ∃ t, runOn (tickInput :: ins) s = .next t ∧ GateAge c g last (age + 1) t := by
  obtain ⟨u, hu⟩ : ∃ u, stepOn tickInput s = .next u := exec_next .tick s
  have hnever : ¬ firingPoll g tickInput s = true := fun hf => nomatch (firingPoll_eq_true_iff.mp hf).1
  have hticked : GateAge c g last (age + 1) u :=
    gateAge_stepOn (inp := tickInput) hs rfl nofun (absurd · hnever) hu
  obtain ⟨t, ht, haged⟩ := gateAge_runOn_of_no_tick hticked
    (fun inp hin => have ⟨ha, htick, _, hset⟩ := hins inp hin; ⟨ha, htick, hset⟩)
    (.inr fun inp hin => have ⟨_, _, hgate, _⟩ := hins inp hin; hgate)
  exact ⟨t, by rw [runOn, hu]; exact ht, haged⟩

/-- A poll with a threshold the age has not reached does not fire. -/
theorem not_firingPoll_of_gateAge {inp : Input} {thr : Word} (hother : otherThrPoll g thr inp s = false)
    (hage : age < thr.toNat) : ¬ firingPoll g inp s = true := by
  intro hf
  obtain ⟨hi, _, _, hdue⟩ := firingPoll_eq_true_iff.mp hf
  have hthr : s.arga = thr := by
    by_contra hne
    exact absurd (hother.symm.trans (decide_eq_true ⟨hi, hne⟩)) nofun
  rw [elapsedSince_of_gateAge hs, hthr] at hdue
  exact absurd (hdue.trans (Nat.mod_le _ _)) (Nat.not_le.mpr hage)

end GateAge

/-- Polled with the threshold `thr` only, the slot keeps its value while fewer than `thr` TICK events have passed, and each
of them ages it. -/
theorem gateAge_runOn {c : Config} {g : BitVec 8} {last age : Nat} {s : State} {thr : Word} {ins : List Input}
    (hs : GateAge c g last age s)
    (hins : ∀ inp ∈ ins, inp.agentStep = true ∧ inp ≠ cmdInput c (wordOf (.gateset g)))
    (hother : stepsWhere (otherThrPoll g thr) ins s = 0) (hage : age + tickCount ins < thr.toNat) :
    ∃ t, runOn ins s = .next t ∧ GateAge c g last (age + tickCount ins) t := by
  induction ins generalizing s age with
  | nil => exact ⟨s, rfl, hs⟩
  | cons inp rest ih =>
    obtain ⟨⟨ha, hset⟩, hrest⟩ := List.forall_mem_cons.mp hins
    obtain ⟨u, hu⟩ := stepOn_next_of_possible (possible_of_agentStep ha) s
    obtain ⟨hinp, hother⟩ := (stepsWhere_cons_eq_zero hu rest).mp hother
    rw [tickCount_cons, ← Nat.add_assoc] at hage ⊢
    have hnever := not_firingPoll_of_gateAge hs hinp (by omega)
    obtain ⟨t, ht, haged⟩ := ih (gateAge_stepOn hs ha hset (absurd · hnever) hu) hrest hother hage
    exact ⟨t, by rw [runOn, hu]; exact ht, haged⟩

/-- A firing of GATE g leaves its slot at age 0 (42_interval.md R143). -/
theorem gateAge_of_fired {g : BitVec 8} {s t : State} (hs : s.Inv) (hr : s.halted = false)
    (hg : g.toNat < s.cfg.nGates) (h : exec (.gate g) s = .next t) (hres : t.result = 1) :
    GateAge s.cfg g s.tick 0 t := by
  have hdue := flag_eq_one_iff.mp ((exec_gate_result hr hg h).symm.trans hres)
  have hk := exec_keeps h
  obtain rfl := Host.Outcome.next.inj ((exec_gate_running hr hg).symm.trans h)
  refine ⟨exec_keeps_inv hs h, hk.halted.trans hr, hk.cfg, ?_, ?_⟩ <;> rw [if_pos hdue]
  · exact readGate_setGate_same (hs.gates.symm ▸ hg) s.tick
  · exact (Nat.mod_eq_of_lt hs.tick_lt).symm

/-- Settles O40: the firing leaves age 0; without a TICK event it stays 0, with TICK events it is their number, and
GATE g fires when it reaches the threshold. -/
theorem gateFiresOncePerThreshold : Obligations.GateFiresOncePerThreshold := by
  intro s t g hs hr hg _ hfire hres
  have hfired := gateAge_of_fired hs hr hg hfire hres
  refine ⟨fun ins hins => ?_, fun hthr ins hins hother hfew => ?_⟩
  · obtain ⟨u, hu, hage⟩ := gateAge_runOn_of_no_tick hfired hins (.inl rfl)
    obtain ⟨v, hv⟩ := exec_next (.gate g) u
    refine ⟨u, v, hu, hv, hage.slot, fun hpos => ?_⟩
    rw [exec_gate_result_of_gateAge hage hg hv, flag_eq_zero_iff, Nat.zero_mod]
    exact Nat.not_le.mpr hpos
  · obtain ⟨u, hu, hage⟩ := gateAge_runOn hfired hins hother ((Nat.zero_add _).symm ▸ hfew)
    rw [Nat.zero_add] at hage
    obtain ⟨v, hv⟩ := exec_next (.gate g) u
    refine ⟨u, v, hu, hv, hage.slot, fun harg => ?_, fun hlast more hmore => ?_⟩
    · rw [exec_gate_result_of_gateAge hage hg hv, flag_eq_zero_iff, harg]
      exact Nat.not_le.mpr ((Nat.mod_le _ _).trans_lt hfew)
    · obtain ⟨x, hx, hagex⟩ := gateAge_runOn_tick_cons hage hmore
      obtain ⟨y, hy⟩ := exec_next (.gate g) x
      refine ⟨x, y, hx, hy, fun harg => ?_⟩
      rw [exec_gate_result_of_gateAge hagex hg hy, flag_eq_one_iff, harg, hlast, Nat.mod_eq_of_lt hthr]

end Sys2Proof.Machine

/-! The breathing generator (43_breathing.md). -/

namespace Sys2Proof.Machine

/-! ### The duty function -/

theorem steps_pos_of_legal {c : Config} (hc : c.Legal) : 0 < c.steps := by
  obtain ⟨-, -, ⟨hsteps, -⟩, -⟩ := hc
  exact hsteps

/-- The clamp to PERIOD does not act up to STEPS (43_breathing.md R160). -/
theorem dutyOf_eq_div {c : Config} {k : Nat} (hk : k ≤ c.steps) : dutyOf c k = k * c.period / c.steps :=
  min_eq_left (Nat.div_le_of_le_mul (Nat.mul_le_mul_right _ hk))

/-- The product of the duty function fits 48 bits (43_breathing.md R160). -/
theorem duty_product_lt {c : Config} (hc : c.Legal) {k : Nat} (hk : k ≤ c.steps) : k * c.period < 2 ^ 48 := by
  obtain ⟨-, -, ⟨-, hsteps⟩, ⟨-, hperiod⟩, -⟩ := hc
  calc k * c.period ≤ 65535 * 4294967295 := Nat.mul_le_mul (hk.trans hsteps) hperiod
    _ < 2 ^ 48 := by decide

/-- Settles O42: the quotient of a product by STEPS is at most PERIOD, and DUTY holds it whole. -/
theorem dutyFunction : Obligations.DutyFunction := by
  intro c k hc
  have hsteps := steps_pos_of_legal hc
  refine ⟨rfl, fun hk => ⟨dutyOf_eq_div hk, duty_product_lt hc hk, dutyWord_toNat hc k⟩, ?_, ?_⟩
  · rw [dutyOf_eq_div (Nat.zero_le _), Nat.zero_mul, Nat.zero_div]
  · rw [dutyOf_eq_div le_rfl, Nat.mul_div_cancel_left _ hsteps]

/-! ### BREN and BRSTEP -/

/-- While disabled a due BRSTEP forces DUTY to 0 (43_breathing.md R162). -/
theorem waveStep_disabled {s : State} (he : s.en = false) : waveStep s = { s with duty := 0 } := by
  simp [waveStep, he]

theorem waveStep_rising {s : State} (he : s.en = true) (hd : s.dir = .rising) : waveStep s = riseStep s := by
  simp [waveStep, he, hd]

theorem waveStep_falling {s : State} (he : s.en = true) (hd : s.dir = .falling) : waveStep s = fallStep s := by
  simp [waveStep, he, hd]

section Running

variable {s : State} (hr : s.halted = false)
include hr

/-- BREN restarts or stops the waveform, but for an enable while enabled (43_breathing.md R161). -/
theorem exec_bren_running (on : Bool) :
    exec (.bren on) s = .next (if on = true ∧ s.en = true then s else restartWave on s) := by
  refine (whenRunning_running hr _).trans ?_
  simp only [Bool.and_eq_true]

/-- BRSTEP makes its transition when its interval has elapsed (43_breathing.md R162). -/
theorem exec_brstep_running :
    exec .brstep s = .next (if elapsedSince s s.brLast < s.cfg.breathInterval then setResult 0 s
      else waveStep { s with brLast := s.tick, result := 1 }) := by
  obtain ⟨t, ht⟩ := exec_next .brstep s
  rw [ht]
  rcases execBrstep_next_cases hr ht with ⟨hd, rfl⟩ | ⟨hd, rfl⟩
  · rw [if_pos hd]
  · rw [if_neg (Nat.not_lt.mpr hd)]

/-- The words of BREN (30_encoding.md R83, R84). -/
theorem stepOn_cmd_bren {v : Word} (hop : v.extractLsb' 0 8 = 0x10#8) :
    stepOn (cmdInput s.cfg v) s =
      if v.extractLsb' 9 23 = 0#23 then exec (.bren (v.getLsbD 8)) s else .next (errState 1 s) := by
  have hd := decodeCommand_bren hop
  split
  · next hz => exact stepOn_cmd_instr hr (hd.trans (if_pos hz))
  · next hz => exact stepOn_cmd_illegal hr (hd.trans (if_neg hz))

end Running

/-- Settles O16: the rule of BREN and that of its words. -/
theorem brenCommand : Obligations.BrenCommand := by
  intro s on hr
  refine ⟨exec_bren_running hr on, ?_⟩
  rintro v hop rfl
  exact stepOn_cmd_bren hr hop

/-- The rising transition with the clamp and the flip as cases (43_breathing.md R162). -/
theorem riseStep_eq {s : State} (hd : s.dir = .rising) :
    riseStep s = { s with
      duty := BitVec.ofNat 32 (dutySpec s.cfg s.stepIdx.toNat)
      stepIdx := if s.cfg.steps ≤ s.stepIdx.toNat + 1 then BitVec.ofNat 16 s.cfg.steps
        else BitVec.ofNat 16 (s.stepIdx.toNat + 1)
      dir := if s.cfg.steps ≤ s.stepIdx.toNat + 1 then .falling else .rising } := by
  rw [riseStep, hd, min_comm, min_def, apply_ite (BitVec.ofNat 16)]
  rfl

/-- The falling transition with the saturation and the flip as cases (43_breathing.md R162). -/
theorem fallStep_eq {s : State} (hd : s.dir = .falling) :
    fallStep s = { s with
      stepIdx := if s.stepIdx.toNat = 0 then 0 else BitVec.ofNat 16 (s.stepIdx.toNat - 1)
      duty := BitVec.ofNat 32 (dutySpec s.cfg (s.stepIdx.toNat - 1))
      dir := if s.stepIdx.toNat ≤ 1 then .rising else .falling } := by
  have hsat : BitVec.ofNat 16 (s.stepIdx.toNat - 1) =
      if s.stepIdx.toNat = 0 then 0 else BitVec.ofNat 16 (s.stepIdx.toNat - 1) := by
    split
    · next h0 => rw [h0]; rfl
    · rfl
  simp only [fallStep, hd, ← hsat, Nat.sub_eq_zero_iff_le]
  rfl

/-- Settles O17: the rule of BRSTEP and its transition disabled, rising and falling; the words of an opcode without
index. -/
theorem brstepCommand : Obligations.BrstepCommand := by
  rintro s k hr rfl
  refine ⟨?_, fun v hop => stepOn_cmd_plain hr hop rfl⟩
  rw [exec_brstep_running hr, elapsedSince_eq_wrapDiff]
  refine congrArg Host.Outcome.next (if_congr Iff.rfl rfl ?_)
  split
  · next he => exact waveStep_disabled (s := { s with brLast := s.tick, result := 1 }) he
  · next he =>
    have he := Bool.eq_true_of_not_eq_false he
    split
    · next hd => exact (waveStep_rising (s := { s with brLast := s.tick, result := 1 }) he hd).trans (riseStep_eq hd)
    · next hd => exact (waveStep_falling (s := { s with brLast := s.tick, result := 1 }) he hd).trans (fallStep_eq hd)

/-! ### What changes the waveform -/

theorem sameWave_refl (s : State) : sameWave s s := ⟨rfl, rfl, rfl, rfl⟩

/-- Of the meanings only BREN and a due BRSTEP write EN, DIR, STEP or DUTY (43_breathing.md R164). -/
theorem exec_keeps_wave {i : Instr} {s t : State} (hbren : ∀ on, i ≠ .bren on)
    (hdue : i = .brstep → s.halted = false → elapsedSince s s.brLast < s.cfg.breathInterval)
    (h : exec i s = .next t) : sameWave s t := by
  cases hr : s.halted with
  | true =>
    obtain rfl := Host.Outcome.next.inj ((exec_halted hr i).symm.trans h)
    exact sameWave_refl s
  | false =>
    cases i with
    | nop | dlyset | diff | elapsed | tick =>
      obtain rfl := eq_of_whenRunning hr h
      exact sameWave_refl _
    | gate g =>
      rcases execGate_next_cases hr h with ⟨_, _, rfl⟩ | ⟨_, _, rfl⟩ | ⟨_, rfl⟩ <;> exact sameWave_refl s
    | gateset g =>
      rcases execGateset_next_cases hr h with ⟨_, rfl⟩ | ⟨_, rfl⟩ <;> exact sameWave_refl s
    | bren on => exact absurd rfl (hbren on)
    | brstep =>
      rw [exec_brstep_running hr, if_pos (hdue rfl hr)] at h
      obtain rfl := Host.Outcome.next.inj h
      exact sameWave_refl s
    | btnpoll =>
      rcases execBtnpoll_next_cases hr h with ⟨_, _, rfl⟩ | ⟨_, _, rfl⟩ | ⟨_, _, rfl⟩ | ⟨_, _, rfl⟩ <;>
        exact sameWave_refl s
    | btnconf =>
      rcases execBtnconf_next_cases hr h with ⟨_, _, _, rfl⟩ | ⟨_, _, _, rfl⟩ | ⟨_, rfl⟩ <;> exact sameWave_refl s
    | line v =>
      rcases execLine_next_cases hr h with ⟨_, _, _, rfl⟩ | ⟨_, rfl⟩ <;> exact sameWave_refl s

/-- A due step is the word of BRSTEP in a running block whose step interval has elapsed. -/
theorem dueStep_eq_true_iff {inp : Input} {s : State} :
    dueStep inp s = true ↔
      inp = cmdInput s.cfg 0x11 ∧ s.halted = false ∧ s.cfg.breathInterval ≤ elapsedSince s s.brLast := by
  rw [elapsedSince_eq_wrapDiff]
  exact decide_eq_true_iff

/-- A due step makes BRSTEP's transition (43_breathing.md R162). -/
theorem stepOn_of_dueStep {inp : Input} {s : State} (h : dueStep inp s = true) :
    stepOn inp s = .next (waveStep { s with brLast := s.tick, result := 1 }) := by
  obtain ⟨rfl, hr, hd⟩ := dueStep_eq_true_iff.mp h
  rw [stepOn_cmd_instr (i := .brstep) hr rfl, exec_brstep_running hr, if_neg (Nat.not_lt.mpr hd)]

/-- Every step of an agent other than BREN 0, BREN 1 and a due BRSTEP keeps EN, DIR, STEP and DUTY (43_breathing.md
R164). -/
theorem stepOn_keeps_wave {inp : Input} {s t : State} (ha : inp.agentStep = true) (hoff : inp ≠ cmdInput s.cfg 0x10)
    (hon : inp ≠ cmdInput s.cfg 0x110) (hdue : dueStep inp s = false) (h : stepOn inp s = .next t) : sameWave s t := by
  rcases stepOn_cases h with ⟨ok, rfl, _⟩ | ⟨_, hx⟩ | ⟨v, _, hx⟩ | ⟨v, i, _, hi, hd, hx⟩ | ⟨_, _, _, _, _, rfl⟩ |
    ⟨_, _, _, _, _, rfl⟩
  · cases ha
  · exact exec_keeps_wave (i := .tick) nofun nofun hx
  · exact exec_keeps_wave (i := .line v) nofun nofun hx
  · have hi : inp = cmdInput s.cfg (wordOf i) := wordOf_of_encode (encode_of_decodeCommand hd) ▸ hi
    refine exec_keeps_wave ?_ ?_ hx
    · rintro (_ | _) rfl
      · exact hoff hi
      · exact hon hi
    · rintro rfl hr
      by_contra hlt
      exact absurd (hdue.symm.trans (dueStep_eq_true_iff.mpr ⟨hi, hr, Nat.le_of_not_lt hlt⟩)) nofun
  · exact sameWave_refl s
  · exact sameWave_refl s

/-- Settles O45: the word of BREN 0, of BREN 1 or of BRSTEP, or else DUTY is kept. -/
theorem dutyOutput : Obligations.DutyOutput := by
  intro s
  refine ⟨rfl, stepOn_rdInput (off := 0x20) (by decide) (by decide) rfl rfl, fun inp t ha h hne => ?_⟩
  by_contra hother
  obtain ⟨hoff, hon, hstep⟩ := not_or.mp hother |>.imp_right not_or.mp
  have hdue : dueStep inp s = false := Bool.eq_false_iff.mpr fun hd => hstep (dueStep_eq_true_iff.mp hd).1
  obtain ⟨-, -, -, hduty⟩ := stepOn_keeps_wave ha hoff hon hdue h
  exact hne hduty.symm

/-- BREN 1 while disabled enables the waveform at its bottom (43_breathing.md R161). -/
theorem stepOn_enable {s : State} (hr : s.halted = false) (he : s.en = false) :
    stepOn (cmdInput s.cfg 0x110) s = .next (restartWave true s) := by
  rw [stepOn_cmd_instr (i := .bren true) hr rfl, exec_bren_running hr, if_neg (by simp [he])]

/-- BREN 0 stops the waveform at its bottom (43_breathing.md R161). -/
theorem stepOn_disable {s : State} (hr : s.halted = false) :
    stepOn (cmdInput s.cfg 0x10) s = .next (restartWave false s) := by
  rw [stepOn_cmd_instr (i := .bren false) hr rfl, exec_bren_running hr, if_neg nofun]

/-- The waveform after the transition depends on the one before and on the parameters only (43_breathing.md R164). -/
theorem sameWave_waveStep {s t : State} (hcfg : s.cfg = t.cfg) (h : sameWave s t) :
    sameWave (waveStep s) (waveStep t) := by
  obtain ⟨hen, hdir, hstep, hduty⟩ := h
  rcases waveStep_cases s with ⟨he, e⟩ | ⟨he, hd, e⟩ | ⟨he, hd, e⟩ <;> rw [e]
  · rw [waveStep_disabled (hen.symm.trans he)]
    exact ⟨hen, hdir, hstep, rfl⟩
  · rw [waveStep_rising (hen.symm.trans he) (hdir.symm.trans hd)]
    simp [sameWave, hen, hdir, hstep, hcfg]
  · rw [waveStep_falling (hen.symm.trans he) (hdir.symm.trans hd)]
    simp [sameWave, hen, hdir, hstep, hcfg]

/-- BREN answers alike from states with the same waveform (43_breathing.md R164). -/
theorem sameWave_exec_bren {on : Bool} {s t u v : State} (hrs : s.halted = false) (hrt : t.halted = false)
    (h : sameWave s t) (hu : exec (.bren on) s = .next u) (hv : exec (.bren on) t = .next v) : sameWave u v := by
  obtain ⟨hen, -, -, -⟩ := id h
  rw [exec_bren_running hrs] at hu
  rw [exec_bren_running hrt, ← hen] at hv
  obtain rfl := Host.Outcome.next.inj hu
  obtain rfl := Host.Outcome.next.inj hv
  split
  · exact h
  · exact ⟨rfl, rfl, rfl, rfl⟩

/-- BRSTEP answers alike from states with the same waveform, due in both or in neither (43_breathing.md R164). -/
theorem sameWave_exec_brstep {s t u v : State} (hrs : s.halted = false) (hrt : t.halted = false) (hcfg : s.cfg = t.cfg)
    (h : sameWave s t) (hdue : elapsedSince s s.brLast < s.cfg.breathInterval ↔
      elapsedSince t t.brLast < t.cfg.breathInterval)
    (hu : exec .brstep s = .next u) (hv : exec .brstep t = .next v) : sameWave u v := by
  rw [exec_brstep_running hrs] at hu
  rw [exec_brstep_running hrt, ← if_congr hdue rfl rfl] at hv
  obtain rfl := Host.Outcome.next.inj hu
  obtain rfl := Host.Outcome.next.inj hv
  split
  · exact h
  · exact sameWave_waveStep hcfg h

/-- A run goes on from the state its first step ends in. -/
theorem runOn_cons {inp : Input} {s t : State} (h : stepOn inp s = .next t) (rest : List Input) :
    runOn (inp :: rest) s = runOn rest t := by
  rw [runOn, h]

/-- Settles O44: the rules of BREN 0 and BREN 1 and of the reset; then equal waveforms meet the same test in BREN and make
the same transition in BRSTEP; and `stepOn_keeps_wave`. -/
theorem waveformRestartsAndIsDeterministic : Obligations.WaveformRestartsAndIsDeterministic := by
  refine ⟨fun s hr => ?_, fun s => ?_, ?_, fun s t inp => stepOn_keeps_wave⟩
  · have hon := stepOn_enable (s := restartWave false s) hr rfl
    exact (runOn_cons (stepOn_disable hr) _).trans (runOn_cons hon [])
  · have hon := stepOn_enable (s := takeReset true s) rfl rfl
    exact ⟨_, (runOn_cons (stepOn_reset true s) _).trans (runOn_cons hon []), rfl, rfl, rfl, rfl⟩
  · rintro s t hrs hrt hcfg hwave i u v (rfl | rfl | ⟨rfl, hdue⟩) hu hv
    · exact sameWave_exec_bren hrs hrt hwave hu hv
    · exact sameWave_exec_bren hrs hrt hwave hu hv
    · rw [← elapsedSince_eq_wrapDiff, ← elapsedSince_eq_wrapDiff, ← not_lt, ← not_lt, not_iff_not] at hdue
      exact sameWave_exec_brstep hrs hrt hcfg hwave hdue hu hv

/-! ### The waveform (43_breathing.md R163) -/

/-- The place of the waveform after k due BRSTEP commands: 0 at its start, then 1, …, 2·STEPS over and over. -/
def wavePlace (c : Config) : Nat → Nat
  | 0 => 0
  | k + 1 => k % (2 * c.steps) + 1

theorem wavePlace_of_pos {c : Config} {k : Nat} (hk : 1 ≤ k) : wavePlace c k = (k - 1) % (2 * c.steps) + 1 := by
  cases k with
  | zero => cases hk
  | succ k => rfl

theorem wavePlace_succ (c : Config) (k : Nat) : wavePlace c (k + 1) = wavePlace c k % (2 * c.steps) + 1 := by
  cases k with
  | zero => rfl
  | succ k => simp only [wavePlace, Nat.mod_add_mod]

theorem wavePlace_le {c : Config} (hc : c.Legal) (k : Nat) : wavePlace c k ≤ 2 * c.steps := by
  have hsteps := steps_pos_of_legal hc
  cases k with
  | zero => exact Nat.zero_le _
  | succ k => exact Nat.mod_lt k (by omega)

/-- A running, enabled generator with the parameters `c` at the place m of the waveform, 0 ≤ m ≤ 2·STEPS. -/
structure WaveAt (c : Config) (m : Nat) (s : State) : Prop where
  running : s.halted = false
  cfg : s.cfg = c
  en : s.en = true
  step : s.stepIdx.toNat = if m ≤ c.steps then m else 2 * c.steps - m
  dir : s.dir = if c.steps ≤ m ∧ m < 2 * c.steps then .falling else .rising
  duty : s.duty.toNat = waveDuty c m

/-- The state BREN 1 leaves is the start of the waveform. -/
theorem waveAt_start {s : State} (hc : s.cfg.Legal) (hr : s.halted = false) (hen : s.en = true)
    (hdir : s.dir = .rising) (hstep : s.stepIdx = 0) (hduty : s.duty = 0) : WaveAt s.cfg 0 s where
  running := hr
  cfg := rfl
  en := hen
  step := by simp [hstep]
  dir := by
    have hsteps := steps_pos_of_legal hc
    rw [hdir, if_neg (by omega)]
  duty := by simp [hduty, waveDuty, dutySpec]

/-- The place decides the waveform. -/
theorem sameWave_of_waveAt {c : Config} {m : Nat} {s t : State} (hs : WaveAt c m s) (ht : WaveAt c m t) :
    sameWave s t :=
  ⟨hs.en.trans ht.en.symm, hs.dir.trans ht.dir.symm, BitVec.eq_of_toNat_eq (hs.step.trans ht.step.symm),
    BitVec.eq_of_toNat_eq (hs.duty.trans ht.duty.symm)⟩

theorem falling_iff_of_waveAt {c : Config} {m : Nat} {s : State} (hs : WaveAt c m s) :
    s.dir = .falling ↔ c.steps ≤ m ∧ m < 2 * c.steps := by
  rw [hs.dir]
  split
  · next h => exact iff_of_true rfl h
  · next h => exact iff_of_false nofun h

/-- The place is kept with the waveform. -/
theorem waveAt_of_sameWave {c : Config} {m : Nat} {s t : State} (hs : WaveAt c m s) (h : sameWave s t)
    (hcfg : t.cfg = s.cfg) (hr : t.halted = s.halted) : WaveAt c m t := by
  obtain ⟨hen, hdir, hstep, hduty⟩ := h
  exact ⟨hr.trans hs.running, hcfg.trans hs.cfg, hen ▸ hs.en, hstep ▸ hs.step, hdir ▸ hs.dir, hduty ▸ hs.duty⟩

theorem toNat_stepIdx_of_le {c : Config} (hc : c.Legal) {k : Nat} (hk : k ≤ c.steps) :
    (BitVec.ofNat 16 k).toNat = k := by
  obtain ⟨-, -, ⟨-, hsteps⟩, -⟩ := hc
  rw [BitVec.toNat_ofNat, Nat.mod_eq_of_lt (by omega)]

section Transition

variable {c : Config} {m : Nat} {s : State} (hc : c.Legal) (hs : WaveAt c m s)
include hc hs

/-- Rising below STEPS: from the place m to m + 1. -/
theorem waveAt_riseStep (hm : m < c.steps) : WaveAt c (m + 1) (riseStep s) := by
  have hstep : s.stepIdx.toNat = m := by rw [hs.step, if_pos hm.le]
  have hdir : s.dir = .rising := by rw [hs.dir, if_neg (by omega)]
  refine ⟨hs.running, hs.cfg, hs.en, ?_, ?_, ?_⟩
  · rw [riseStep_stepIdx, hs.cfg, hstep, toNat_stepIdx_of_le hc (Nat.min_le_right _ _), min_eq_left hm,
      if_pos (Nat.succ_le_of_lt hm)]
  · rw [riseStep_dir, hs.cfg, hstep, hdir]
    exact if_congr (by omega) rfl rfl
  · rw [riseStep_duty, hs.cfg, hstep, dutyWord_toNat hc, waveDuty, if_pos (Nat.succ_le_of_lt hm)]
    rfl

/-- Falling: from the place m to m + 1. -/
theorem waveAt_fallStep (hlo : c.steps ≤ m) (hhi : m < 2 * c.steps) : WaveAt c (m + 1) (fallStep s) := by
  have hstep : s.stepIdx.toNat - 1 = 2 * c.steps - (m + 1) := by
    rw [hs.step]
    split <;> omega
  have hdir : s.dir = .falling := by rw [hs.dir, if_pos ⟨hlo, hhi⟩]
  refine ⟨hs.running, hs.cfg, hs.en, ?_, ?_, ?_⟩
  · rw [fallStep_stepIdx, hstep, toNat_stepIdx_of_le hc (by omega), if_neg (by omega)]
  · rw [fallStep_dir, hstep, hdir]
    by_cases hend : m + 1 = 2 * c.steps
    · rw [if_pos (by omega), if_neg (by omega)]
    · rw [if_neg (by omega), if_pos (by omega)]
  · rw [fallStep_duty, hs.cfg, hstep, dutyWord_toNat hc, waveDuty, if_neg (by omega)]
    rfl

/-- The end of the waveform is its start. -/
theorem waveAt_zero_of_end (hm : m = 2 * c.steps) : WaveAt c 0 s := by
  subst hm
  have hsteps := steps_pos_of_legal hc
  refine { hs with step := ?_, dir := ?_, duty := ?_ }
  · rw [hs.step, if_neg (by omega), Nat.sub_self, if_pos (Nat.zero_le _)]
  · rw [hs.dir, if_neg (by omega), if_neg (by omega)]
  · rw [hs.duty, waveDuty, if_neg (by omega), Nat.sub_self, waveDuty, if_pos (Nat.zero_le _)]

/-- The transition of a due BRSTEP goes to the next place (43_breathing.md R162). -/
theorem waveAt_waveStep (hm : m ≤ 2 * c.steps) : WaveAt c (m % (2 * c.steps) + 1) (waveStep s) := by
  have hsteps := steps_pos_of_legal hc
  rcases Nat.lt_or_eq_of_le hm with hlt | rfl
  · rw [Nat.mod_eq_of_lt hlt]
    by_cases hhalf : m < c.steps
    · rw [waveStep_rising hs.en (by rw [hs.dir, if_neg (by omega)])]
      exact waveAt_riseStep hc hs hhalf
    · have hlo := Nat.le_of_not_lt hhalf
      rw [waveStep_falling hs.en (by rw [hs.dir, if_pos ⟨hlo, hlt⟩])]
      exact waveAt_fallStep hc hs hlo hlt
  · have hstart := waveAt_zero_of_end hc hs rfl
    rw [Nat.mod_self, waveStep_rising hs.en (by rw [hs.dir, if_neg (by omega)])]
    exact waveAt_riseStep hc hstart hsteps

omit hc in
/-- A step of an agent other than BREN 0 and a due BRSTEP keeps the place; BREN 1 finds the generator enabled. -/
theorem waveAt_stepOn_of_not_due {inp : Input} {t : State} (ha : inp.agentStep = true)
    (hoff : inp ≠ cmdInput c 0x10) (hdue : dueStep inp s = false) (h : stepOn inp s = .next t) : WaveAt c m t := by
  obtain ⟨hcfg, hhalt⟩ := stepOn_keeps_cfg_halted h (ne_reset_of_agentStep ha)
  refine waveAt_of_sameWave hs ?_ hcfg hhalt
  by_cases hon : inp = cmdInput s.cfg 0x110
  · subst hon
    rw [stepOn_cmd_instr (i := .bren true) hs.running rfl, exec_bren_running hs.running,
      if_pos ⟨rfl, hs.en⟩] at h
    obtain rfl := Host.Outcome.next.inj h
    exact sameWave_refl s
  · exact stepOn_keeps_wave ha (hs.cfg.symm ▸ hoff) hon hdue h

end Transition

/-- However the agents interleave without BREN 0, the place counts the due BRSTEP commands. -/
theorem waveAt_runOn {c : Config} {k : Nat} {s : State} {ins : List Input} (hc : c.Legal)
    (hs : WaveAt c (wavePlace c k) s) (hins : ∀ inp ∈ ins, inp.agentStep = true ∧ inp ≠ cmdInput c 0x10) :
    ∃ t, runOn ins s = .next t ∧ WaveAt c (wavePlace c (k + dueSteps ins s)) t := by
  induction ins generalizing s k with
  | nil => exact ⟨s, rfl, hs⟩
  | cons inp rest ih =>
    obtain ⟨⟨ha, hoff⟩, hrest⟩ := List.forall_mem_cons.mp hins
    obtain ⟨u, hu⟩ := stepOn_next_of_possible (possible_of_agentStep ha) s
    have hnext : WaveAt c (wavePlace c (k + (dueStep inp s).toNat)) u := by
      cases hdue : dueStep inp s with
      | true =>
        obtain rfl := Host.Outcome.next.inj ((stepOn_of_dueStep hdue).symm.trans hu)
        have hs' : WaveAt c (wavePlace c k) { s with brLast := s.tick, result := 1 } := { hs with }
        exact wavePlace_succ c k ▸ waveAt_waveStep hc hs' (wavePlace_le hc k)
      | false => exact waveAt_stepOn_of_not_due hs ha hoff hdue hu
    obtain ⟨t, ht, hplace⟩ := ih hnext hrest
    refine ⟨t, (runOn_cons hu rest).trans ht, ?_⟩
    rwa [dueSteps, stepsWhere_cons hu, ← Nat.add_assoc]

/-- DUTY rises over the first half (43_breathing.md R163). -/
theorem waveDuty_le_of_rising {c : Config} {m n : Nat} (hmn : m ≤ n) (hn : n ≤ c.steps) :
    waveDuty c m ≤ waveDuty c n := by
  rw [waveDuty, waveDuty, if_pos (hmn.trans hn), if_pos hn]
  exact dutyOf_mono c (by omega)

/-- DUTY falls over the second half (43_breathing.md R163). -/
theorem waveDuty_le_of_falling {c : Config} {m n : Nat} (hm : c.steps < m) (hmn : m ≤ n) :
    waveDuty c n ≤ waveDuty c m := by
  rw [waveDuty, waveDuty, if_neg (by omega), if_neg (by omega)]
  exact dutyOf_mono c (by omega)

/-- The peak of the waveform (43_breathing.md R163). -/
theorem waveDuty_le_peak (c : Config) (n : Nat) : waveDuty c n ≤ dutySpec c (c.steps - 1) := by
  unfold waveDuty
  split <;> exact dutyOf_mono c (by omega)

/-- Settles O43: `waveAt_runOn` from the start of the waveform; the two halves and the peak by `dutyOf_mono`. -/
theorem breathingWaveform : Obligations.BreathingWaveform := by
  refine ⟨fun s ins hc hr hen hdir hstep hduty hins => ?_, fun c m n _ _ hmn => ?_⟩
  · have hstart := waveAt_start hc hr hen hdir hstep hduty
    obtain ⟨t, ht, hplace⟩ := waveAt_runOn (k := 0) hc hstart hins
    rw [Nat.zero_add] at hplace
    refine ⟨t, ht, hplace.en, fun h0 => ?_, fun m hk hm => ?_⟩
    · rw [h0] at hplace
      exact sameWave_of_waveAt hplace hstart
    · rw [wavePlace_of_pos hk, ← hm] at hplace
      exact ⟨hplace.step, hplace.duty, falling_iff_of_waveAt hplace⟩
  · exact ⟨waveDuty_le_of_rising hmn, fun hm _ => waveDuty_le_of_falling hm hmn, fun _ => waveDuty_le_peak c n⟩

end Sys2Proof.Machine

/-! The debounced edge detector and the selector (44_debounce.md). -/

namespace Sys2Proof.Machine

/-! ### LINE, BTNPOLL and BTNCONF -/

/-- LINE v sets LEVEL, and an accepted fall is a press (44_debounce.md R181, R182). -/
theorem exec_line_running {s : State} (hr : s.halted = false) (v : Bool) :
    exec (.line v) s = .next
      (if s.level = true ∧ v = false ∧ s.cfg.debounceWindow < elapsedSince s s.btnLast then
        { s with level := v, pending := true, btnLast := s.tick }
       else { s with level := v }) := by
  obtain ⟨t, ht⟩ := exec_next (.line v) s
  rw [ht]
  rcases execLine_next_cases hr ht with ⟨hl, hv, he, rfl⟩ | ⟨hn, rfl⟩
  · rw [if_pos ⟨hl, hv, he⟩]
  · rw [if_neg hn]

/-- BTNCONF confirms a pending press or clears it as noise (44_debounce.md R185). -/
theorem exec_btnconf_running {s : State} (hr : s.halted = false) :
    exec .btnconf s = .next
      (if s.pending = true ∧ s.confirmed = false then
        if s.level = false then { s with sel := nextSel s.sel, confirmed := true, result := 1 }
        else { s with pending := false, result := 0 }
       else { s with result := 2 }) := by
  obtain ⟨t, ht⟩ := exec_next .btnconf s
  rw [ht]
  rcases execBtnconf_next_cases hr ht with ⟨hp, hc, hl, rfl⟩ | ⟨hp, hc, hl, rfl⟩ | ⟨hn, rfl⟩
  · rw [if_pos ⟨hp, hc⟩, if_neg (by simp [hl])]
    rfl
  · rw [if_pos ⟨hp, hc⟩, if_pos hl]
    rfl
  · rw [if_neg hn]
    rfl

/-- Settles O18: the meaning's own branches, and the words of an opcode without index. -/
theorem btnpollCommand : Obligations.BtnpollCommand :=
  fun _ hr => ⟨whenRunning_running hr _, fun _ hop => stepOn_cmd_plain hr hop rfl⟩

/-- Settles O19: `exec_btnconf_running`, and the words of an opcode without index. -/
theorem btnconfCommand : Obligations.BtnconfCommand :=
  fun _ hr => ⟨exec_btnconf_running hr, fun _ hop => stepOn_cmd_plain hr hop rfl⟩

/-- Settles O20: a halted block keeps its state, a running one follows `exec_line_running`. -/
theorem lineEvent : Obligations.LineEvent := by
  intro s v
  refine ⟨?_, stepOn_line v s⟩
  split
  · next hh => exact exec_halted hh _
  · next hr => exact elapsedSince_eq_wrapDiff s _ ▸ exec_line_running (Bool.eq_false_of_not_eq_true hr) v

/-! ### Which steps reach the button and the selector -/

/-- The edge detector and the selector are as before: PENDING, CONFIRMED, BTN_LAST, LEVEL and SEL (10_state.md R23 to
R26). -/
structure ButtonKept (s t : State) : Prop where
  pending : t.pending = s.pending
  confirmed : t.confirmed = s.confirmed
  btnLast : t.btnLast = s.btnLast
  level : t.level = s.level
  sel : t.sel = s.sel

theorem buttonKept_refl (s : State) : ButtonKept s s := ⟨rfl, rfl, rfl, rfl, rfl⟩

/-- Of the meanings only LINE, BTNPOLL and BTNCONF write the edge detector or the selector (10_state.md R36). -/
theorem exec_keeps_button {i : Instr} {s t : State} (hline : ∀ v, i ≠ .line v) (hpoll : i ≠ .btnpoll)
    (hconf : i ≠ .btnconf) (h : exec i s = .next t) : ButtonKept s t := by
  cases hr : s.halted with
  | true =>
    obtain rfl := Host.Outcome.next.inj ((exec_halted hr i).symm.trans h)
    exact buttonKept_refl s
  | false =>
    cases i with
    | nop | dlyset | diff | elapsed | tick =>
      obtain rfl := eq_of_whenRunning hr h
      exact ⟨rfl, rfl, rfl, rfl, rfl⟩
    | gate g =>
      rcases execGate_next_cases hr h with ⟨_, _, rfl⟩ | ⟨_, _, rfl⟩ | ⟨_, rfl⟩ <;> exact ⟨rfl, rfl, rfl, rfl, rfl⟩
    | gateset g =>
      rcases execGateset_next_cases hr h with ⟨_, rfl⟩ | ⟨_, rfl⟩ <;> exact ⟨rfl, rfl, rfl, rfl, rfl⟩
    | bren on =>
      rcases execBren_next_cases hr h with ⟨_, _, rfl⟩ | ⟨_, rfl⟩ <;> exact ⟨rfl, rfl, rfl, rfl, rfl⟩
    | brstep =>
      rcases execBrstep_next_cases hr h with ⟨_, rfl⟩ | ⟨_, rfl⟩
      · exact ⟨rfl, rfl, rfl, rfl, rfl⟩
      · rw [waveStep_frame]
        exact ⟨rfl, rfl, rfl, rfl, rfl⟩
    | btnpoll => exact absurd rfl hpoll
    | btnconf => exact absurd rfl hconf
    | line v => exact absurd rfl (hline v)

/-- Every step of an agent other than LINE and the words of BTNPOLL and BTNCONF keeps the edge detector and the
selector. -/
theorem stepOn_keeps_button {inp : Input} {s t : State} (ha : inp.agentStep = true) (hline : ∀ v, inp ≠ lineInput v)
    (hpoll : inp ≠ cmdInput s.cfg 0x20) (hconf : inp ≠ cmdInput s.cfg 0x21) (h : stepOn inp s = .next t) :
    ButtonKept s t := by
  rcases stepOn_cases h with ⟨ok, rfl, _⟩ | ⟨_, hx⟩ | ⟨v, hi, _⟩ | ⟨v, i, _, hi, hd, hx⟩ | ⟨_, _, _, _, _, rfl⟩ |
    ⟨_, _, _, _, _, rfl⟩
  · cases ha
  · exact exec_keeps_button (i := .tick) nofun nofun nofun hx
  · exact absurd hi (hline v)
  · have hv := encode_of_decodeCommand hd
    have hi : inp = cmdInput s.cfg (wordOf i) := wordOf_of_encode hv ▸ hi
    refine exec_keeps_button ?_ ?_ ?_ hx
    · rintro v rfl
      cases hv
    · rintro rfl
      exact hpoll hi
    · rintro rfl
      exact hconf hi
  · exact ⟨rfl, rfl, rfl, rfl, rfl⟩
  · exact ⟨rfl, rfl, rfl, rfl, rfl⟩

/-- Inversion: a step of an agent in a running block is LINE v, the word of BTNPOLL or that of BTNCONF, or it keeps the
edge detector and the selector. -/
theorem stepOn_button_cases {inp : Input} {s t : State} (hr : s.halted = false) (ha : inp.agentStep = true)
    (h : stepOn inp s = .next t) :
    (∃ v, inp = lineInput v ∧ execLine v s = .next t) ∨
    (inp = cmdInput s.cfg 0x20 ∧ execBtnpoll s = .next t) ∨
    (inp = cmdInput s.cfg 0x21 ∧ execBtnconf s = .next t) ∨
    ((∀ v, inp ≠ lineInput v) ∧ inp ≠ cmdInput s.cfg 0x20 ∧ inp ≠ cmdInput s.cfg 0x21 ∧ ButtonKept s t) := by
  by_cases hline : ∃ v, inp = lineInput v
  · obtain ⟨v, rfl⟩ := hline
    exact .inl ⟨v, rfl, (stepOn_line v s).symm.trans h⟩
  by_cases hpoll : inp = cmdInput s.cfg 0x20
  · subst hpoll
    exact .inr (.inl ⟨rfl, (stepOn_cmd_instr (i := .btnpoll) hr rfl).symm.trans h⟩)
  by_cases hconf : inp = cmdInput s.cfg 0x21
  · subst hconf
    exact .inr (.inr (.inl ⟨rfl, (stepOn_cmd_instr (i := .btnconf) hr rfl).symm.trans h⟩))
  · have hline := not_exists.mp hline
    exact .inr (.inr (.inr ⟨hline, hpoll, hconf, stepOn_keeps_button ha hline hpoll hconf h⟩))

theorem lineInput_injective : Function.Injective lineInput := by decide

theorem lineInput_ne_cmdInput (v : Bool) (c : Config) (w : Word) : lineInput v ≠ cmdInput c w := nofun

/-- The words of BTNPOLL and BTNCONF differ (30_encoding.md R83). -/
theorem btnpoll_input_ne_btnconf_input (c : Config) : cmdInput c 0x20 ≠ cmdInput c 0x21 := by
  intro h
  injection h with _ _ hv
  exact absurd hv (by decide)

/-- PENDING and CONFIRMED after LINE v (44_debounce.md R182). -/
theorem execLine_flags {v : Bool} {s t : State} (hr : s.halted = false) (h : execLine v s = .next t) :
    (t.pending, t.confirmed) =
      if v = false ∧ s.level = true ∧ s.cfg.debounceWindow < elapsedSince s s.btnLast then (true, s.confirmed)
      else (s.pending, s.confirmed) := by
  rcases execLine_next_cases hr h with ⟨hl, hv, he, rfl⟩ | ⟨hn, rfl⟩
  · rw [if_pos ⟨hv, hl, he⟩]
  · rw [if_neg fun ⟨hv, hl, he⟩ => hn ⟨hl, hv, he⟩]

/-- PENDING and CONFIRMED after BTNPOLL (44_debounce.md R184). -/
theorem execBtnpoll_flags {s t : State} (hr : s.halted = false) (h : execBtnpoll s = .next t) :
    (t.pending, t.confirmed) =
      if s.confirmed = true ∧ s.level = true then (false, false) else (s.pending, s.confirmed) := by
  rcases execBtnpoll_next_cases hr h with ⟨hc, hl, rfl⟩ | ⟨_, hl, rfl⟩ | ⟨hc, _, rfl⟩ | ⟨hc, _, rfl⟩
  · simp [hc, hl]
  · simp [hl]
  · simp [hc]
  · simp [hc]

/-- PENDING and CONFIRMED after BTNCONF (44_debounce.md R185). -/
theorem execBtnconf_flags {s t : State} (hr : s.halted = false) (h : execBtnconf s = .next t) :
    (t.pending, t.confirmed) =
      if s.pending = true ∧ s.confirmed = false then if s.level = true then (false, false) else (true, true)
      else (s.pending, s.confirmed) := by
  rcases execBtnconf_next_cases hr h with ⟨hp, hc, hl, rfl⟩ | ⟨hp, hc, hl, rfl⟩ | ⟨hn, rfl⟩
  · simp [hp, hc, hl]
  · simp [hp, hc, hl]
  · rw [if_neg hn]
    rfl

/-- Settles O47: the three steps that reach the two flags by their own rules, and every other step keeps them. -/
theorem buttonEventTransitions : Obligations.ButtonEventTransitions := by
  intro s t inp ha hr h
  have hlp := lineInput_ne_cmdInput (c := s.cfg) (w := 0x20)
  have hlc := lineInput_ne_cmdInput (c := s.cfg) (w := 0x21)
  have hpc := btnpoll_input_ne_btnconf_input s.cfg
  rw [← elapsedSince_eq_wrapDiff]
  rcases stepOn_button_cases hr ha h with ⟨v, rfl, hx⟩ | ⟨rfl, hx⟩ | ⟨rfl, hx⟩ | ⟨hline, hpoll, hconf, hk⟩
  · rw [execLine_flags hr hx, if_neg (not_and_of_not_left _ (hlp v)), if_neg (not_and_of_not_left _ (hlc v))]
    exact if_congr (and_congr_left' lineInput_injective.eq_iff.symm) rfl rfl
  · rw [execBtnpoll_flags hr hx, if_neg (not_and_of_not_left _ (hlp false).symm), if_neg (not_and_of_not_left _ hpc)]
    exact if_congr (and_iff_right rfl).symm rfl rfl
  · rw [execBtnconf_flags hr hx, if_neg (not_and_of_not_left _ (hlc false).symm),
      if_neg (not_and_of_not_left _ hpc.symm)]
    exact if_congr (and_iff_right rfl).symm rfl rfl
  · rw [if_neg (hline false ·.1), if_neg (hpoll ·.1), if_neg (hconf ·.1), hk.pending, hk.confirmed]

/-! ### The selector (44_debounce.md R186) -/

/-- A step of an agent changes nothing but the value read while HALTED = 1 (60_exceptions.md R214). -/
theorem stepOn_agent_halted {inp : Input} {s t : State} (hh : s.halted = true) (ha : inp.agentStep = true)
    (h : stepOn inp s = .next t) : t = { s with readData := t.readData } := by
  cases inp with
  | reset ok => cases ha
  | event ev => rw [← Host.Outcome.next.inj ((stepOn_event_halted hh ha).symm.trans h)]
  | write addr size v => rw [← Host.Outcome.next.inj ((stepOn_write_halted hh addr size v).symm.trans h)]
  | read addr size =>
    obtain ⟨v, hv⟩ := stepOn_read_halted hh addr size
    rw [← Host.Outcome.next.inj (hv.symm.trans h)]

/-- The step confirms a press: the word of BTNCONF reaches a running block with a pending, unconfirmed press whose line is
still asserted (44_debounce.md R185). -/
def ConfirmsPress (inp : Input) (s : State) : Prop :=
  inp = cmdInput s.cfg 0x21 ∧ s.halted = false ∧ s.pending = true ∧ s.confirmed = false ∧ s.level = false

/-- A confirmation advances the selector (44_debounce.md R185). -/
theorem stepOn_advances_sel {inp : Input} {s t : State} (hc : ConfirmsPress inp s) (h : stepOn inp s = .next t) :
    t.sel = nextSel s.sel := by
  obtain ⟨rfl, hr, hp, hcf, hl⟩ := hc
  rw [stepOn_cmd_instr (i := .btnconf) hr rfl, exec_btnconf_running hr, if_pos ⟨hp, hcf⟩, if_pos hl] at h
  rw [← Host.Outcome.next.inj h]

/-- Nothing else an agent does changes SEL (44_debounce.md R186). -/
theorem stepOn_keeps_sel {inp : Input} {s t : State} (ha : inp.agentStep = true) (hc : ¬ ConfirmsPress inp s)
    (h : stepOn inp s = .next t) : t.sel = s.sel := by
  cases hr : s.halted with
  | true => rw [stepOn_agent_halted hr ha h]
  | false =>
    rcases stepOn_button_cases hr ha h with ⟨v, _, hx⟩ | ⟨_, hx⟩ | ⟨hi, hx⟩ | ⟨_, _, _, hk⟩
    · rw [(execLine_frame hx).1]
    · rcases execBtnpoll_next_cases hr hx with ⟨_, _, rfl⟩ | ⟨_, _, rfl⟩ | ⟨_, _, rfl⟩ | ⟨_, _, rfl⟩ <;> rfl
    · rcases execBtnconf_next_cases hr hx with ⟨_, _, _, rfl⟩ | ⟨hp, hcf, hl, _⟩ | ⟨_, rfl⟩
      · rfl
      · exact absurd ⟨hi, hr, hp, hcf, hl⟩ hc
      · rfl
    · exact hk.sel

/-- BTNSTAT[5:4] is SEL (20_memory.md R55). -/
theorem btnstatWord_sel (s : State) : (btnstatWord s).extractLsb' 4 2 = s.sel := by
  have hsel := s.sel.isLt
  have hlevel := s.level.toNat_lt
  have hconfirmed := s.confirmed.toNat_lt
  have hpending := s.pending.toNat_lt
  rw [btnstatWord_eq_ofNat, BitVec.toNat_eq, BitVec.extractLsb'_toNat, BitVec.toNat_ofNat, Nat.shiftRight_eq_div_pow]
  omega

/-- The three values of SEL form one cycle (44_debounce.md R186). -/
theorem nextSel_cycle : ∀ x : BitVec 2, x.toNat < 3 →
    nextSel x ≠ x ∧ nextSel (nextSel (nextSel x)) = x ∧ (nextSel x).toNat < 3 := by decide

/-- Settles O46: a confirmation advances SEL, every other step keeps it; the port and BTNSTAT hold it. -/
theorem selectorAdvancesOnConfirmation : Obligations.SelectorAdvancesOnConfirmation := by
  refine ⟨fun s t inp ha h => ⟨?_, rfl, btnstatWord_sel t⟩, nextSel_cycle⟩
  split
  · next hc => exact stepOn_advances_sel hc h
  · next hc => exact stepOn_keeps_sel ha hc h

/-! ### A held press (44_debounce.md R189) -/

/-- A press of the running block with the parameters `c` whose line is still asserted: confirmed or not, with the selector
at `x`. -/
structure HeldPress (c : Config) (confirmed : Bool) (x : BitVec 2) (s : State) : Prop where
  running : s.halted = false
  cfg : s.cfg = c
  level : s.level = false
  pending : s.pending = true
  confirmed : s.confirmed = confirmed
  sel : s.sel = x

section HeldPress

variable {c : Config} {b : Bool} {x : BitVec 2} {s t : State} (hs : HeldPress c b x s)
include hs

/-- While the line is not released, BTNPOLL only reports and a LINE event repeats the level. -/
theorem heldPress_stepOn_of_ne_btnconf {inp : Input} (ha : inp.agentStep = true) (hrelease : inp ≠ lineInput true)
    (hconf : inp ≠ cmdInput c 0x21) (h : stepOn inp s = .next t) : HeldPress c b x t := by
  have hr := hs.running
  rcases stepOn_button_cases hr ha h with ⟨v, rfl, hx⟩ | ⟨_, hx⟩ | ⟨hi, _⟩ | ⟨_, _, _, hk⟩
  · rcases execLine_next_cases hr hx with ⟨hl, _⟩ | ⟨_, rfl⟩
    · exact absurd (hs.level.symm.trans hl) nofun
    · cases v with
      | true => exact absurd rfl hrelease
      | false => exact { hs with level := rfl }
  · rcases execBtnpoll_next_cases hr hx with ⟨_, hl, _⟩ | ⟨_, _, rfl⟩ | ⟨_, _, rfl⟩ | ⟨_, _, rfl⟩
    · exact absurd (hs.level.symm.trans hl) nofun
    all_goals exact { hs with }
  · exact absurd (hs.cfg ▸ hi) hconf
  · obtain ⟨hcfg, hhalt⟩ := stepOn_keeps_cfg_halted h (ne_reset_of_agentStep ha)
    exact ⟨hhalt.trans hr, hcfg.trans hs.cfg, hk.level.trans hs.level, hk.pending.trans hs.pending,
      hk.confirmed.trans hs.confirmed, hk.sel.trans hs.sel⟩

/-- BTNCONF confirms the press once, and the selector advances only then (44_debounce.md R185). -/
theorem heldPress_stepOn_btnconf :
    ∃ t, stepOn (cmdInput c 0x21) s = .next t ∧ HeldPress c true (if b then x else nextSel x) t := by
  have hr := hs.running
  obtain ⟨t, ht⟩ := exec_next .btnconf s
  refine ⟨t, hs.cfg ▸ (stepOn_cmd_instr hr rfl).trans ht, ?_⟩
  rcases execBtnconf_next_cases hr ht with ⟨_, _, hl, _⟩ | ⟨_, hc, _, rfl⟩ | ⟨hn, rfl⟩
  · exact absurd (hs.level.symm.trans hl) nofun
  · obtain rfl : false = b := hc.symm.trans hs.confirmed
    exact { hs with confirmed := rfl, sel := congrArg nextSel hs.sel }
  · cases b with
    | false => exact absurd ⟨hs.pending, hs.confirmed⟩ hn
    | true => exact { hs with }

end HeldPress

/-- Once confirmed, a held press stays as it is, however often the host polls and confirms. -/
theorem heldPress_runOn_of_confirmed {c : Config} {x : BitVec 2} {s : State} {ins : List Input}
    (hs : HeldPress c true x s) (hins : ∀ inp ∈ ins, inp.agentStep = true ∧ inp ≠ lineInput true) :
    ∃ t, runOn ins s = .next t ∧ HeldPress c true x t := by
  refine runOn_keeps hs fun inp hin u hu => ?_
  obtain ⟨ha, hrelease⟩ := hins inp hin
  by_cases hconf : inp = cmdInput c 0x21
  · exact hconf ▸ heldPress_stepOn_btnconf hu
  · obtain ⟨t, ht⟩ := stepOn_next_of_possible (possible_of_agentStep ha) u
    exact ⟨t, ht, heldPress_stepOn_of_ne_btnconf hu ha hrelease hconf ht⟩

/-- A held press is confirmed by the first BTNCONF of the run, and stays unconfirmed in a run without one. -/
theorem heldPress_runOn {c : Config} {x : BitVec 2} {s : State} {ins : List Input} (hs : HeldPress c false x s)
    (hins : ∀ inp ∈ ins, inp.agentStep = true ∧ inp ≠ lineInput true) :
    ∃ t, runOn ins s = .next t ∧ (cmdInput c 0x21 ∈ ins → HeldPress c true (nextSel x) t) ∧
      (cmdInput c 0x21 ∉ ins → HeldPress c false x t) := by
  induction ins generalizing s with
  | nil => exact ⟨s, rfl, nofun, fun _ => hs⟩
  | cons inp rest ih =>
    obtain ⟨⟨ha, hrelease⟩, hrest⟩ := List.forall_mem_cons.mp hins
    by_cases hconf : inp = cmdInput c 0x21
    · subst hconf
      obtain ⟨u, hu, hnext⟩ := heldPress_stepOn_btnconf hs
      obtain ⟨t, ht, hend⟩ := heldPress_runOn_of_confirmed hnext hrest
      exact ⟨t, (runOn_cons hu rest).trans ht, fun _ => hend, fun hn => absurd List.mem_cons_self hn⟩
    · obtain ⟨u, hu⟩ := stepOn_next_of_possible (possible_of_agentStep ha) s
      obtain ⟨t, ht, hend⟩ := ih (heldPress_stepOn_of_ne_btnconf hs ha hrelease hconf hu) hrest
      rw [List.mem_cons, or_iff_right (Ne.symm hconf)]
      exact ⟨t, (runOn_cons hu rest).trans ht, hend⟩

/-- Settles O48: `heldPress_runOn` from the pending press. -/
theorem heldPressAdvancesOnce : Obligations.HeldPressAdvancesOnce := by
  intro s ins hr hp hc hl hins
  have hs : HeldPress s.cfg false s.sel s := ⟨hr, rfl, hl, hp, hc, rfl⟩
  obtain ⟨t, ht, hconf, hnoconf⟩ := heldPress_runOn hs hins
  exact ⟨t, ht, fun h => ⟨(hconf h).sel, (hconf h).confirmed⟩, fun h => ⟨(hnoconf h).sel, (hnoconf h).confirmed⟩⟩

/-! ### The retrigger guard's window (44_debounce.md R182) -/

/-- Of all agent steps only an accepted falling edge writes BTN_LAST (10_state.md R36, 44_debounce.md R182). -/
theorem stepOn_keeps_btnLast {inp : Input} {s t : State} (hr : s.halted = false) (ha : inp.agentStep = true)
    (hguard : elapsedSince s s.btnLast ≤ s.cfg.debounceWindow) (h : stepOn inp s = .next t) :
    t.btnLast = s.btnLast := by
  cases inp with
  | reset ok => cases ha
  | read addr size | write addr size v => exact (stepOn_access_hostKeeps ha nofun h).1.btnLast
  | event ev =>
    rcases stepOn_event_cases ev s with ⟨_, e⟩ | ⟨v, _, e⟩ | ⟨_, e⟩
    · rw [execTick_frame (e.symm.trans h)]
    · rcases execLine_next_cases hr (e.symm.trans h) with ⟨_, _, he, _⟩ | ⟨_, rfl⟩
      · exact absurd hguard (Nat.not_le.mpr he)
      · rfl
    · cases e.symm.trans h

/-- A running block with the parameters `c` whose last accepted edge was at TICK = `last`, `age` TICK events ago. -/
structure EdgeAge (c : Config) (last age : Nat) (s : State) : Prop where
  running : s.halted = false
  cfg : s.cfg = c
  last_lt : last < 2 ^ c.w
  btnLast : s.btnLast = last
  tick : s.tick = (last + age) % 2 ^ c.w

section EdgeAge

variable {c : Config} {last age : Nat} {s : State} (hs : EdgeAge c last age s)
include hs

/-- What the retrigger guard compares is at most the number of TICK events since the edge (42_interval.md R140). -/
theorem elapsedSince_le_edgeAge : elapsedSince s s.btnLast ≤ age := by
  rw [elapsedSince, hs.cfg, hs.tick, hs.btnLast, subW_add_ticks hs.last_lt]
  exact Nat.mod_le _ _

/-- Inside the window the guard holds off every edge. -/
theorem guard_of_edgeAge (hage : age ≤ c.debounceWindow) : elapsedSince s s.btnLast ≤ s.cfg.debounceWindow :=
  (elapsedSince_le_edgeAge hs).trans (hs.cfg.symm ▸ hage)

/-- Inside the window a step of an agent ages the edge by its TICK event. -/
theorem edgeAge_stepOn {inp : Input} {t : State} (ha : inp.agentStep = true) (hage : age ≤ c.debounceWindow)
    (h : stepOn inp s = .next t) : EdgeAge c last (age + tickCount [inp]) t := by
  obtain ⟨hcfg, hhalt⟩ := stepOn_keeps_cfg_halted h (ne_reset_of_agentStep ha)
  have hlt : s.tick < 2 ^ s.cfg.w := by
    rw [hs.tick, hs.cfg]
    exact Nat.mod_lt _ (two_pow_pos _)
  refine ⟨hhalt.trans hs.running, hcfg.trans hs.cfg, hs.last_lt, ?_, ?_⟩
  · exact (stepOn_keeps_btnLast hs.running ha (guard_of_edgeAge hs hage) h).trans hs.btnLast
  · rw [stepOn_tick_add hs.running hlt ha h, hs.cfg, hs.tick, Nat.mod_add_mod, Nat.add_assoc]

end EdgeAge

/-- However the agents interleave, inside the window the accepted edge only ages. -/
theorem edgeAge_runOn {c : Config} {last age : Nat} {s : State} {ins : List Input} (hs : EdgeAge c last age s)
    (hins : ∀ inp ∈ ins, inp.agentStep = true) (hage : age + tickCount ins ≤ c.debounceWindow) :
    ∃ t, runOn ins s = .next t ∧ EdgeAge c last (age + tickCount ins) t := by
  induction ins generalizing s age with
  | nil => exact ⟨s, rfl, hs⟩
  | cons inp rest ih =>
    obtain ⟨ha, hrest⟩ := List.forall_mem_cons.mp hins
    obtain ⟨u, hu⟩ := stepOn_next_of_possible (possible_of_agentStep ha) s
    rw [tickCount_cons, ← Nat.add_assoc] at hage ⊢
    obtain ⟨t, ht, haged⟩ := ih (edgeAge_stepOn hs ha (by omega) hu) hrest hage
    exact ⟨t, (runOn_cons hu rest).trans ht, haged⟩

/-- Settles O49: at the end of the run the edge is of the age of its TICK events, so the guard ignores a fall. -/
theorem noSecondEdgeInsideTheWindow : Obligations.NoSecondEdgeInsideTheWindow := by
  intro s ins _ hr hlt hlast hins hfew
  have hs : EdgeAge s.cfg s.tick 0 s := ⟨hr, rfl, hlt, hlast, (Nat.mod_eq_of_lt hlt).symm⟩
  obtain ⟨t, ht, hage⟩ := edgeAge_runOn hs hins ((Nat.zero_add _).symm ▸ hfew)
  have hguard := guard_of_edgeAge hage ((Nat.zero_add _).symm ▸ hfew)
  have hbtn : t.btnLast = s.btnLast := hage.btnLast.trans hlast.symm
  have hfall := exec_line_running hage.running false
  rw [if_neg fun ⟨_, _, he⟩ => absurd hguard (Nat.not_le.mpr he)] at hfall
  exact ⟨t, _, ht, hbtn, (stepOn_line false t).trans hfall, rfl, hbtn⟩

end Sys2Proof.Machine

/-! Exceptions and liveness (60_exceptions.md): every step completes, an error is recorded once and stops nothing, and a
countdown ends if the tick source is fair. -/

namespace Sys2Proof.Machine

/-! ### A countdown under fairness (60_exceptions.md R224) -/

/-- A TICK event takes 1 off DELAY while it lasts, and every other agent step but DLYSET keeps it (41_tick_delay.md
R123). -/
theorem stepOn_delay_sub {inp : Input} {s t : State} (hr : s.halted = false) (ha : inp.agentStep = true)
    (hne : inp ≠ cmdInput s.cfg 0x01) (h : stepOn inp s = .next t) : t.delay = s.delay - tickCount [inp] := by
  by_cases htick : inp = tickInput
  · subst htick
    obtain rfl := Host.Outcome.next.inj ((execTick_running hr).symm.trans h)
    rfl
  · rw [stepOn_keeps_delay ha htick hne h, tickCount_singleton_of_ne htick, Nat.sub_zero]

section InfiniteRun
/-! An infinite run of agent steps from a running block, without DLYSET. -/

variable {env : Nat → Input} {run : Nat → State} (hrun : InfiniteRun env run) (hr : (run 0).halted = false)
  (henv : ∀ n, (env n).agentStep = true ∧ env n ≠ cmdInput (run 0).cfg 0x01)
include hrun hr henv

/-- The block runs all along, with the same parameters. -/
theorem infiniteRun_running (n : Nat) : (run n).halted = false ∧ (run n).cfg = (run 0).cfg := by
  refine infiniteRun_keeps (P := fun s => s.halted = false ∧ s.cfg = (run 0).cfg) hrun ⟨hr, rfl⟩ ?_ n
  rintro n t ⟨hrn, hcfgn⟩ h
  obtain ⟨hcfg, hhalt⟩ := stepOn_keeps_cfg_halted h (ne_reset_of_agentStep (henv n).1)
  exact ⟨hhalt.trans hrn, hcfg.trans hcfgn⟩

theorem infiniteRun_delay_succ (n : Nat) : (run (n + 1)).delay = (run n).delay - tickCount [env n] := by
  obtain ⟨hrn, hcfgn⟩ := infiniteRun_running hrun hr henv n
  exact stepOn_delay_sub hrn (henv n).1 (hcfgn ▸ (henv n).2) (hrun n)

/-- DELAY never rises, so from some point on it keeps its value. -/
theorem infiniteRun_delay_stabilizes : ∃ n, ∀ m, n ≤ m → (run n).delay = (run m).delay := by
  have hanti : Antitone fun n => (run n).delay :=
    antitone_nat_of_succ_le fun n => (infiniteRun_delay_succ hrun hr henv n).le.trans (Nat.sub_le _ _)
  exact WellFoundedGT.monotone_chain_condition (α := Natᵒᵈ) ⟨_, hanti⟩

/-- A value that a TICK event leaves unchanged is 0, and a fair run has such an event after DELAY has settled. -/
theorem infiniteRun_delay_ends (hfair : FairTicks env run) : ∃ n, ∀ m, n ≤ m → (run m).delay = 0 := by
  obtain ⟨n, hstable⟩ := infiniteRun_delay_stabilizes hrun hr henv
  obtain ⟨k, hnk, htick⟩ := hfair n fun m _ => (infiniteRun_running hrun hr henv m).1
  have hone := infiniteRun_delay_succ hrun hr henv k
  rw [htick, show tickCount [tickInput] = 1 from rfl] at hone
  have hk := hstable k hnk
  have hk1 := hstable (k + 1) (hnk.trans k.le_succ)
  exact ⟨n, fun m hm => by rw [← hstable m hm]; omega⟩

/-- Without TICK events nothing changes DELAY. -/
theorem infiniteRun_delay_const (hno : ∀ n, env n ≠ tickInput) (n : Nat) : (run n).delay = (run 0).delay := by
  induction n with
  | zero => rfl
  | succ n ih =>
    rw [infiniteRun_delay_succ hrun hr henv, tickCount_singleton_of_ne (hno n), Nat.sub_zero, ih]

end InfiniteRun

/-- Settles O51: a fair run wears DELAY down to 0, and a run without TICK events keeps it. -/
theorem delayEndsUnderFairness : Obligations.DelayEndsUnderFairness := fun _ _ hrun hr henv =>
  ⟨infiniteRun_delay_ends hrun hr henv, infiniteRun_delay_const hrun hr henv⟩

/-! ### Every step completes (60_exceptions.md R210, R216) -/

/-- Settles O21: `exec_next` and `stepOn_next_of_possible`; a label that names no event is refused. -/
theorem everyStepCompletes : Obligations.EveryStepCompletes := by
  refine ⟨exec_next, fun inp s => ⟨?_, fun hp => stepOn_next_of_possible hp s⟩⟩
  rintro ⟨t, h⟩
  cases inp with
  | reset ok | read addr size | write addr size v => rfl
  | event ev =>
    rcases stepOn_event_cases ev s with ⟨hi, _⟩ | ⟨v, hi, _⟩ | ⟨_, e⟩
    · exact hi ▸ rfl
    · exact hi ▸ (by cases v <;> rfl)
    · cases e.symm.trans h

/-! ### Which step raises which error (60_exceptions.md R211, R212) -/

/-- IDX[7:1] within the word (30_encoding.md R80, R83). -/
theorem idx_upper_field (v : Word) : (v.extractLsb' 8 8).extractLsb' 1 7 = v.extractLsb' 9 7 := by
  simp only [BitVec.toNat_eq, BitVec.extractLsb'_toNat, Nat.shiftRight_eq_div_pow]
  omega

/-- A word the decoder turns down is one of the illegal words (30_encoding.md R84, R85). -/
theorem illegalWord_of_decodeCommand {v : Word} {e : DecodeError} (h : decodeCommand v = .illegal e) :
    IllegalWord v := by
  by_contra hlegal
  simp only [IllegalWord, not_or, not_not, not_and] at hlegal
  obtain ⟨hrsv, hop, hbren, hidx⟩ := hlegal
  have hd : decodeCommand v = decodeOp (v.extractLsb' 0 8) (v.extractLsb' 8 8) := if_neg (not_not.mpr hrsv)
  rw [hd] at h
  by_cases hg : v.extractLsb' 0 8 = 0x0A#8 ∨ v.extractLsb' 0 8 = 0x0B#8
  · cases (decodeOp_gates hg _).symm.trans h
  by_cases hb : v.extractLsb' 0 8 = 0x10#8
  · have hupper : (v.extractLsb' 8 8).extractLsb' 1 7 = 0#7 := (idx_upper_field v).trans (hbren hb)
    rw [hb] at h
    cases (if_neg (not_not.mpr hupper)).symm.trans h
  · have hz : v.extractLsb' 8 8 = 0#8 := hidx (by simpa [not_or, hb] using hg)
    cases ((decodeOp_plain hop hg hb _).trans (if_neg (not_not.mpr hz))).symm.trans h

/-- GATE on a slot that exists tests and updates it (42_interval.md R143). -/
theorem exec_gate_of_slot {g : BitVec 8} {s : State} (hw : (Instr.gate g).wf s.cfg = true) :
    exec (.gate g) s = whenRunning s (pollGate g.toNat s) :=
  congrArg (whenRunning s) (if_pos hw)

/-- GATESET on a slot that exists sets it (42_interval.md R144). -/
theorem exec_gateset_of_slot {g : BitVec 8} {s : State} (hw : (Instr.gateset g).wf s.cfg = true) :
    exec (.gateset g) s = whenRunning s (setGate g.toNat (tickOperand s.cfg s.arga) s) :=
  congrArg (whenRunning s) (if_pos hw)

/-- An instruction that is not well formed is GATE or GATESET on a slot that does not exist, and raises BAD_INDEX and
nothing else (42_interval.md R143, R144). -/
theorem exec_of_not_wf {i : Instr} {s : State} (hw : i.wf s.cfg = false) :
    exec i s = whenRunning s (errState 2 s) := by
  cases i with
  | gate g | gateset g => exact congrArg (whenRunning s) (if_neg (Bool.eq_false_iff.mp hw))
  | nop | dlyset | diff | elapsed | bren | brstep | btnpoll | btnconf | tick | line => cases hw

/-- The word of such an instruction is one of the words of cause 2 (30_encoding.md R85). -/
theorem badIndexWord_of_not_wf {c : Config} {i : Instr} {v : Word} (hw : i.wf c = false)
    (hd : decodeCommand v = .instr i) : BadIndexWord c v := by
  have hv := encode_of_decodeCommand hd
  cases i with
  | gate g | gateset g =>
    injection hv with hv
    obtain ⟨hrsv, hop, hidx⟩ := hv ▸ commandWord_fields _ g
    refine ⟨hrsv, by rw [show v.extractLsb' 0 8 = _ from hop]; decide, ?_⟩
    rw [show v.extractLsb' 8 8 = g from hidx]
    exact Nat.not_lt.mp (of_decide_eq_false hw)
  | nop | dlyset | diff | elapsed | bren | brstep | btnpoll | btnconf | tick | line => cases hw

/-- The input is of the kind that raises the cause `c`: an illegal command word, a word with a bad index, or an illegal
access (60_exceptions.md R211). -/
def RaisesCause (c : BitVec 4) (inp : Input) (s : State) : Prop :=
  (c = 1 ∧ ∃ v, inp = cmdInput s.cfg v ∧ IllegalWord v) ∨
  (c = 2 ∧ ∃ v, inp = cmdInput s.cfg v ∧ BadIndexWord s.cfg v) ∨
  (c = 3 ∧ ((∃ addr size, inp = .read addr size ∧ legalRead s addr size = none) ∨
    (∃ addr size v, inp = .write addr size v ∧ ¬ WriteLegal s.cfg addr size)))

/-- What a step does to ERR and ECAUSE: nothing, or the effect of an error of a cause that its input raises
(60_exceptions.md R212). -/
def ErrorEffect (inp : Input) (s t : State) : Prop :=
  (t.err = s.err ∧ t.ecause = s.ecause) ∨
  (∃ c, RaisesCause c inp s ∧ t.err = true ∧ t.ecause = if s.ecause = 0 then c else s.ecause)

/-- A meaning raises BAD_INDEX or leaves ERR and ECAUSE alone. -/
theorem exec_error_cases {i : Instr} {s t : State} (h : exec i s = .next t) :
    (t.err = s.err ∧ t.ecause = s.ecause) ∨ (i.wf s.cfg = false ∧ t = errState 2 s) := by
  cases hw : i.wf s.cfg with
  | true => exact .inl ((exec_keeps h).error hw)
  | false =>
    rcases whenRunning_eq_next.mp ((exec_of_not_wf hw).symm.trans h) with ⟨_, rfl⟩ | ⟨_, rfl⟩
    · exact .inl ⟨rfl, rfl⟩
    · exact .inr ⟨rfl, rfl⟩

/-- Inversion: what a step other than the reset does to ERR and ECAUSE. -/
theorem stepOn_errorEffect {inp : Input} {s t : State} (h : stepOn inp s = .next t) (hne : ∀ ok, inp ≠ .reset ok) :
    ErrorEffect inp s t := by
  cases inp with
  | reset ok => exact absurd rfl (hne ok)
  | event ev =>
    rcases stepOn_event_cases ev s with ⟨_, e⟩ | ⟨v, _, e⟩ | ⟨_, e⟩
    · exact .inl ((exec_keeps (e.symm.trans h)).error rfl)
    · exact .inl ((exec_keeps (e.symm.trans h)).error rfl)
    · cases e.symm.trans h
  | read addr size =>
    rcases stepOn_read_cases addr size s with ⟨v, _, e⟩ | ⟨_, _, e⟩ | ⟨hl, _, e⟩ <;> rw [e] at h <;> cases h
    · exact .inl ⟨rfl, rfl⟩
    · exact .inl ⟨rfl, rfl⟩
    · exact .inr ⟨3, .inr (.inr ⟨rfl, .inl ⟨_, _, rfl, hl⟩⟩), rfl, rfl⟩
  | write addr size v =>
    rcases stepOn_write_cases addr size v s with ⟨_, e⟩ | ⟨_, _, e⟩ | ⟨_, _, e⟩ | ⟨i, _, hi, hd, e⟩ | ⟨_, _, hi, hd, e⟩ |
      ⟨_, hl, e⟩ <;> rw [e] at h
    · cases h; exact .inl ⟨rfl, rfl⟩
    · cases h; exact .inl ⟨rfl, rfl⟩
    · cases h; exact .inl ⟨rfl, rfl⟩
    · rcases exec_error_cases h with hkept | ⟨hw, rfl⟩
      · exact .inl hkept
      · exact .inr ⟨2, .inr (.inl ⟨rfl, v, hi, badIndexWord_of_not_wf hw hd⟩), rfl, rfl⟩
    · cases h; exact .inr ⟨1, .inl ⟨rfl, v, hi, illegalWord_of_decodeCommand hd⟩, rfl, rfl⟩
    · cases h; exact .inr ⟨3, .inr (.inr ⟨rfl, .inr ⟨_, _, v, rfl, hl⟩⟩), rfl, rfl⟩

/-- Settles O30: the reset raises no error, and of any other step `stepOn_errorEffect` says the cause, which is recorded
as ECAUSE was 0. -/
theorem firstErrorCause : Obligations.FirstErrorCause := by
  intro s t inp hc herr hcause h ht
  have hne : ∀ ok, inp ≠ .reset ok := by
    rintro ok rfl
    obtain rfl := Host.Outcome.next.inj h
    cases ht
  rcases stepOn_errorEffect h hne with ⟨hkept, _⟩ | ⟨c, hraises, _, hc'⟩
  · cases (hkept.trans herr).symm.trans ht
  obtain rfl : t.ecause = c := hc'.trans (if_pos hcause)
  refine hraises.imp_right (Or.imp_right (And.imp_right (Or.imp_left ?_)))
  rintro ⟨addr, size, hi, hl⟩
  exact ⟨addr, size, hi, fun hlegal => by simpa [hl] using (legalRead_isSome_iff hc addr size).mpr hlegal⟩

/-! ### Errors are sticky (60_exceptions.md R213) -/

/-- An agent step never clears ERR and never overwrites a recorded cause. -/
theorem stepOn_error_sticky {inp : Input} {s t : State} (ha : inp.agentStep = true) (h : stepOn inp s = .next t) :
    (s.err = true → t.err = true) ∧ (s.ecause ≠ 0 → t.ecause = s.ecause) := by
  rcases stepOn_errorEffect h (ne_reset_of_agentStep ha) with ⟨herr, hcause⟩ | ⟨c, _, herr, hcause⟩
  · exact ⟨herr.trans, fun _ => hcause⟩
  · exact ⟨fun _ => herr, fun h0 => hcause.trans (if_neg h0)⟩

/-- Settles O31: along the run each step is sticky. -/
theorem errorsAreSticky : Obligations.ErrorsAreSticky := by
  intro ins s t hins h
  refine runOn_next_keeps (P := fun u => (s.err = true → u.err = true) ∧ (s.ecause ≠ 0 → u.ecause = s.ecause))
    ⟨id, fun _ => rfl⟩ ?_ h
  rintro inp hin u v ⟨herr, hcause⟩ hstep
  obtain ⟨herr', hcause'⟩ := stepOn_error_sticky (hins inp hin) hstep
  exact ⟨herr' ∘ herr, fun h0 => (hcause' (hcause h0 ▸ h0)).trans (hcause h0)⟩

/-! ### Errors do not stop the block (60_exceptions.md R213): every operation of the model commutes with `withError` -/

/-- The block with ERR and ECAUSE as given. -/
def withError (e : Bool) (k : BitVec 4) (s : State) : State := { s with err := e, ecause := k }

/-- A meaning that computes the same whatever ERR and ECAUSE hold answers the same. -/
theorem whenRunning_withError {e e' : Bool} {k k' : BitVec 4} {s t u v : State} (hv : v = withError e' k' u)
    (h : whenRunning s u = .next t) : ∃ e' k', whenRunning (withError e k s) v = .next (withError e' k' t) := by
  subst hv
  rcases whenRunning_eq_next.mp h with ⟨hh, rfl⟩ | ⟨hr, rfl⟩
  · exact ⟨e, k, whenRunning_halted (s := withError e k t) hh _⟩
  · exact ⟨e', k', whenRunning_running (s := withError e k s) hr _⟩

theorem fallingEdge_withError (e : Bool) (k : BitVec 4) (s : State) :
    fallingEdge (withError e k s) = withError e k (fallingEdge s) := by
  simp only [fallingEdge, apply_ite (withError e k)]
  rfl

theorem pollGate_withError (e : Bool) (k : BitVec 4) (g : Nat) (s : State) :
    pollGate g (withError e k s) = withError e k (pollGate g s) := by
  simp only [pollGate, apply_ite (withError e k)]
  rfl

theorem waveStep_withError (e : Bool) (k : BitVec 4) (s : State) :
    waveStep (withError e k s) = withError e k (waveStep s) := by
  have hen : (withError e k s).en = s.en := rfl
  have hdir : (withError e k s).dir = s.dir := rfl
  unfold waveStep
  rw [hen, hdir]
  cases s.en
  · rfl
  · cases s.dir <;> rfl

/-- The error effect is the same on everything but ERR and ECAUSE. -/
theorem errState_withError (c : BitVec 4) (e : Bool) (k : BitVec 4) (s : State) :
    errState c (withError e k s) = withError true (if k = 0 then c else k) (errState c s) := rfl

/-- No command and no event reads ERR or ECAUSE. -/
theorem exec_withError {i : Instr} {s t : State} (e : Bool) (k : BitVec 4) (h : exec i s = .next t) :
    ∃ e' k', exec i (withError e k s) = .next (withError e' k' t) := by
  cases hw : i.wf s.cfg with
  | false =>
    rw [exec_of_not_wf hw] at h
    rw [exec_of_not_wf (s := withError e k s) hw]
    exact whenRunning_withError (errState_withError 2 e k s) h
  | true =>
    have hsame {u v : State} (hv : v = withError e k u) := whenRunning_withError (e := e) (k := k) (s := s) (t := t) hv
    cases i with
    | nop | dlyset | diff | elapsed | tick => exact hsame rfl h
    | gate g =>
      rw [exec_gate_of_slot hw] at h
      rw [exec_gate_of_slot (s := withError e k s) hw]
      exact hsame (pollGate_withError e k g.toNat s) h
    | gateset g =>
      rw [exec_gateset_of_slot hw] at h
      rw [exec_gateset_of_slot (s := withError e k s) hw]
      exact hsame rfl h
    | bren on => exact hsame (by rw [apply_ite (withError e k)]; rfl) h
    | brstep => exact hsame (by rw [apply_ite (withError e k), ← waveStep_withError]; rfl) h
    | btnpoll | btnconf => exact hsame (by simp only [apply_ite (withError e k)]; rfl) h
    | line v => exact hsame (by rw [apply_ite (withError e k), ← fallingEdge_withError]; rfl) h

/-- STATUS stands at its own offset only (20_memory.md R51). -/
theorem windowReg_status {c : Config} {addr size : Nat} (h : windowReg c addr size = some .status) :
    Input.read addr size = rdInput c 0x18 := by
  obtain ⟨rfl, off, _, _, rfl, hreg⟩ := windowReg_some h
  rcases regAt_some hreg with hm | ⟨_, _, hg⟩
  · obtain rfl : off = 0x18 := by simpa [fixedRegs] using hm
    rfl
  · cases hg

/-- Of the registers only STATUS shows ERR and ECAUSE (20_memory.md R55). -/
theorem legalRead_withError {addr size : Nat} {s : State} (hne : Input.read addr size ≠ rdInput s.cfg 0x18) (e : Bool)
    (k : BitVec 4) : legalRead (withError e k s) addr size = legalRead s addr size := by
  refine Option.bind_congr fun r hreg => ?_
  cases r with
  | status => exact absurd (windowReg_status hreg) hne
  | _ => rfl

theorem badAccess_withError (e : Bool) (k : BitVec 4) (s : State) :
    ∃ e' k', badAccess (withError e k s) = withError e' k' (badAccess s) := by
  cases hr : s.halted with
  | true => exact ⟨e, k, by rw [badAccess, badAccess, if_pos hr]; exact if_pos hr⟩
  | false =>
    have hn := Bool.eq_false_iff.mp hr
    exact ⟨true, if k = 0 then 3 else k, by rw [badAccess, badAccess, if_neg hn]; exact if_neg hn⟩

/-- A read of anything but STATUS answers the same, and an illegal one raises its error. -/
theorem hostRead_withError {addr size : Nat} {s : State} (hne : Input.read addr size ≠ rdInput s.cfg 0x18) (e : Bool)
    (k : BitVec 4) : ∃ e' k', hostRead addr size (withError e k s) = withError e' k' (hostRead addr size s) := by
  simp only [hostRead, legalRead_withError hne]
  cases legalRead s addr size with
  | some v => exact ⟨e, k, rfl⟩
  | none =>
    obtain ⟨e', k', hb⟩ := badAccess_withError e k s
    exact ⟨e', k', congrArg (answerRead 0) hb⟩

/-- A write stores the same operand, runs the same command or raises the same error. -/
theorem stepOn_write_withError {addr size : Nat} {v : Word} {s t : State} (e : Bool) (k : BitVec 4)
    (h : stepOn (.write addr size v) s = .next t) :
    ∃ e' k', stepOn (.write addr size v) (withError e k s) = .next (withError e' k' t) := by
  rcases stepOn_write_cases addr size v s with ⟨hh, eq⟩ | ⟨hr, hi, eq⟩ | ⟨hr, hi, eq⟩ | ⟨i, hr, hi, hd, eq⟩ |
    ⟨_, hr, hi, hd, eq⟩ | ⟨hr, hl, eq⟩ <;> rw [eq] at h
  · cases h; exact ⟨e, k, stepOn_write_halted (s := withError e k s) hh _ _ v⟩
  · cases h; exact ⟨e, k, hi ▸ stepOn_wrInput_arga (s := withError e k s) hr v⟩
  · cases h; exact ⟨e, k, hi ▸ stepOn_wrInput_argb (s := withError e k s) hr v⟩
  · obtain ⟨e', k', hx⟩ := exec_withError e k h
    exact ⟨e', k', hi ▸ (stepOn_cmd_instr (s := withError e k s) hr hd).trans hx⟩
  · cases h
    rw [hi]
    exact ⟨true, if k = 0 then 1 else k, stepOn_cmd_illegal (s := withError e k s) hr hd⟩
  · cases h
    exact ⟨true, if k = 0 then 3 else k, stepOn_write_illegal (s := withError e k s) hr hl v⟩

/-- Settles O32: the reset, an event, a read and a write. -/
theorem errorsDoNotStopTheBlock : Obligations.ErrorsDoNotStopTheBlock := by
  intro s t inp e k hne h
  cases inp with
  | reset ok =>
    obtain rfl := Host.Outcome.next.inj h
    exact ⟨false, 0, rfl⟩
  | event ev =>
    rw [stepOn_event] at h ⊢
    cases hd : decodeEvent ev with
    | instr i => rw [hd] at h; exact exec_withError e k h
    | illegal err => rw [hd] at h; cases h
  | read addr size =>
    obtain rfl := Host.Outcome.next.inj h
    obtain ⟨e', k', hread⟩ := hostRead_withError hne e k
    exact ⟨e', k', congrArg Host.Outcome.next hread⟩
  | write addr size v => exact stepOn_write_withError e k h

end Sys2Proof.Machine

/-! Reset, the hazard of a command's operands, and the start-up windows (70_reset_and_hazards.md). -/

namespace Sys2Proof.Machine

/-- Settles O33: the rule of the reset step, whose state is R240's (R241, R242). -/
theorem resetStep : Obligations.ResetStep := fun s timerCfgOk => stepOn_reset timerCfgOk s

/-! ### The operands of the next command (70_reset_and_hazards.md R251) -/

theorem decodeCommand_of_encode {i : Instr} {v : Word} (h : encode i = .command v) : decodeCommand v = .instr i := by
  have hd := decode_encode i
  rwa [h] at hd

/-- Settles O28: two writes store the operands, and the command runs in the state they leave. -/
theorem operandsSeenByNextCommand : Obligations.OperandsSeenByNextCommand := by
  intro s i a b w hr hi
  obtain ⟨t, ht⟩ := exec_next i { s with arga := a, argb := b }
  have harga := stepOn_wrInput_arga hr a
  have hargb := stepOn_wrInput_argb (s := { s with arga := a }) hr b
  have hcmd := stepOn_cmd_instr (s := { s with arga := a, argb := b }) hr (decodeCommand_of_encode hi)
  exact ((runOn_cons harga _).trans ((runOn_cons hargb _).trans (runOn_cons (hcmd.trans ht) []))).trans ht.symm

/-! ### The start-up windows (70_reset_and_hazards.md R262) -/

/-- What every step of a run keeps, about the state and the inputs still to come, holds at its end if it has one. -/
theorem runOn_next_keeps_rest {P : List Input → State → Prop} {ins : List Input} {s t : State} (h0 : P ins s)
    (hstep : ∀ {inp rest u v}, P (inp :: rest) u → stepOn inp u = .next v → P rest v) (h : runOn ins s = .next t) :
    P [] t := by
  induction ins generalizing s with
  | nil => exact Host.Outcome.next.inj h ▸ h0
  | cons inp rest ih =>
    rw [runOn] at h
    split at h
    · next u hu => exact ih (hstep h0 hu) h
    · cases h
    · cases h

/-- A running block with the parameters `c` before the agents' steps `ins`, at the end of which TICK is `n`, not wrapped
around. -/
structure StartUp (c : Config) (n : Nat) (ins : List Input) (s : State) : Prop where
  agents : ∀ inp ∈ ins, inp.agentStep = true
  inv : s.Inv
  running : s.halted = false
  cfg : s.cfg = c
  lt : n < 2 ^ c.w
  ticks : s.tick + tickCount ins = n

theorem startUp_resetOf {c : Config} {ins : List Input} (hc : c.Legal) (hins : ∀ inp ∈ ins, inp.agentStep = true)
    (hlt : tickCount ins < 2 ^ c.w) : StartUp c (tickCount ins) ins (State.resetOf c true) :=
  ⟨hins, inv_resetOf hc true, rfl, rfl, hlt, Nat.zero_add _⟩

section StartUp

variable {c : Config} {n : Nat} {inp : Input} {ins : List Input} {s t : State}

/-- A timestamp of 0, the reset value, is TICK ticks old. -/
theorem elapsedSince_zero (hs : s.Inv) : elapsedSince s 0 = s.tick := by
  rw [elapsedSince, subW_of_lt hs.tick_lt (two_pow_pos _), if_pos (Nat.zero_le _), Nat.sub_zero]

theorem startUp_head_agentStep (hs : StartUp c n (inp :: ins) s) : inp.agentStep = true :=
  hs.agents inp List.mem_cons_self

theorem startUp_tick_end (hs : StartUp c n [] s) : s.tick = n := hs.ticks

theorem startUp_stepOn (hs : StartUp c n (inp :: ins) s) (h : stepOn inp s = .next t) : StartUp c n ins t := by
  have ha := startUp_head_agentStep hs
  have hlt := hs.lt
  have hticks := hs.ticks
  obtain ⟨hcfg, hhalt⟩ := stepOn_keeps_cfg_halted h (ne_reset_of_agentStep ha)
  refine ⟨(List.forall_mem_cons.mp hs.agents).2, stepOn_keeps_inv hs.inv h, hhalt.trans hs.running,
    hcfg.trans hs.cfg, hlt, ?_⟩
  rw [tickCount_cons] at hticks
  rw [stepOn_tick_add hs.running hs.inv.tick_lt ha h, hs.cfg, Nat.mod_eq_of_lt (by omega), Nat.add_assoc, hticks]

/-! #### The edge guard -/

/-- While the guard holds off every edge, no agent step sets PENDING (44_debounce.md R182). -/
theorem pending_of_stepOn_guarded (hr : s.halted = false) (ha : inp.agentStep = true)
    (hguard : elapsedSince s s.btnLast ≤ s.cfg.debounceWindow) (h : stepOn inp s = .next t) (hp : t.pending = true) :
    s.pending = true := by
  cases inp with
  | reset ok => cases ha
  | read addr size | write addr size v => exact (stepOn_access_hostKeeps ha nofun h).1.pending hp
  | event ev =>
    rcases stepOn_event_cases ev s with ⟨_, e⟩ | ⟨v, _, e⟩ | ⟨_, e⟩
    · rwa [execTick_frame (e.symm.trans h)] at hp
    · rcases execLine_next_cases hr (e.symm.trans h) with ⟨_, _, he, _⟩ | ⟨_, rfl⟩
      · exact absurd hguard (Nat.not_le.mpr he)
      · exact hp
    · cases e.symm.trans h

/-- No edge accepted since reset. -/
structure NoEdgeYet (c : Config) (n : Nat) (ins : List Input) (s : State) : Prop extends StartUp c n ins s where
  pending : s.pending = false
  btnLast : s.btnLast = 0

/-- No edge is accepted in a step before TICK exceeds the window. -/
theorem noEdgeYet_stepOn (hn : n ≤ c.debounceWindow) (hs : NoEdgeYet c n (inp :: ins) s) (h : stepOn inp s = .next t) :
    NoEdgeYet c n ins t := by
  have ha := startUp_head_agentStep hs.toStartUp
  have hguard : elapsedSince s s.btnLast ≤ s.cfg.debounceWindow := by
    rw [hs.btnLast, elapsedSince_zero hs.inv, hs.cfg]
    exact (hs.ticks ▸ Nat.le_add_right _ _ : s.tick ≤ n).trans hn
  refine ⟨startUp_stepOn hs.toStartUp h, Bool.eq_false_iff.mpr fun hp => ?_,
    (stepOn_keeps_btnLast hs.running ha hguard h).trans hs.btnLast⟩
  exact absurd (hs.pending.symm.trans (pending_of_stepOn_guarded hs.running ha hguard h hp)) nofun

/-! #### The first due BRSTEP -/

/-- Of the meanings only a due BRSTEP writes BR_LAST (43_breathing.md R161, R162). -/
theorem exec_keeps_brLast {i : Instr}
    (hdue : i = .brstep → s.halted = false → elapsedSince s s.brLast < s.cfg.breathInterval)
    (h : exec i s = .next t) : t.brLast = s.brLast := by
  cases hr : s.halted with
  | true => exact congrArg State.brLast (Host.Outcome.next.inj (h.symm.trans (exec_halted hr i)))
  | false =>
    cases i with
    | nop | dlyset | diff | elapsed | tick =>
      obtain rfl := eq_of_whenRunning hr h
      rfl
    | gate g => rcases execGate_next_cases hr h with ⟨_, _, rfl⟩ | ⟨_, _, rfl⟩ | ⟨_, rfl⟩ <;> rfl
    | gateset g => rcases execGateset_next_cases hr h with ⟨_, rfl⟩ | ⟨_, rfl⟩ <;> rfl
    | bren on => rcases execBren_next_cases hr h with ⟨_, _, rfl⟩ | ⟨_, rfl⟩ <;> rfl
    | brstep =>
      rw [exec_brstep_running hr, if_pos (hdue rfl hr)] at h
      obtain rfl := Host.Outcome.next.inj h
      rfl
    | btnpoll =>
      rcases execBtnpoll_next_cases hr h with ⟨_, _, rfl⟩ | ⟨_, _, rfl⟩ | ⟨_, _, rfl⟩ | ⟨_, _, rfl⟩ <;> rfl
    | btnconf => rcases execBtnconf_next_cases hr h with ⟨_, _, _, rfl⟩ | ⟨_, _, _, rfl⟩ | ⟨_, rfl⟩ <;> rfl
    | line v => rw [(execLine_frame h).1]

/-- Of all agent steps only a due BRSTEP writes BR_LAST (10_state.md R36, 43_breathing.md R162). -/
theorem stepOn_keeps_brLast (ha : inp.agentStep = true) (hdue : dueStep inp s = false) (h : stepOn inp s = .next t) :
    t.brLast = s.brLast := by
  rcases stepOn_cases h with ⟨ok, rfl, _⟩ | ⟨_, hx⟩ | ⟨v, _, hx⟩ | ⟨v, i, _, hi, hd, hx⟩ | ⟨_, _, _, _, _, rfl⟩ |
    ⟨_, _, _, _, _, rfl⟩
  · cases ha
  · exact exec_keeps_brLast (i := .tick) nofun hx
  · exact exec_keeps_brLast (i := .line v) nofun hx
  · refine exec_keeps_brLast ?_ hx
    rintro rfl hr
    have hi : inp = cmdInput s.cfg (wordOf .brstep) := wordOf_of_encode (encode_of_decodeCommand hd) ▸ hi
    exact Nat.lt_of_not_le fun hle => absurd (hdue.symm.trans (dueStep_eq_true_iff.mpr ⟨hi, hr, hle⟩)) nofun
  · rfl
  · rfl

/-- BRSTEP writes RESULT 1 when it is due, and else 0 (43_breathing.md R162). -/
theorem exec_brstep_result (hr : s.halted = false) (h : exec .brstep s = .next t) :
    t.result = if s.cfg.breathInterval ≤ elapsedSince s s.brLast then 1 else 0 := by
  rcases execBrstep_next_cases hr h with ⟨hd, rfl⟩ | ⟨hd, rfl⟩
  · exact (if_neg (Nat.not_le.mpr hd)).symm
  · rw [waveStep_frame, if_pos hd]

/-- No BRSTEP due since reset, and none in the steps to come. -/
structure NoDueYet (c : Config) (n : Nat) (ins : List Input) (s : State) : Prop extends StartUp c n ins s where
  noDue : dueSteps ins s = 0
  brLast : s.brLast = 0

theorem noDueYet_stepOn (hs : NoDueYet c n (inp :: ins) s) (h : stepOn inp s = .next t) : NoDueYet c n ins t := by
  obtain ⟨hinp, hrest⟩ := (stepsWhere_cons_eq_zero h ins).mp hs.noDue
  have hkept := stepOn_keeps_brLast (startUp_head_agentStep hs.toStartUp) hinp h
  exact ⟨startUp_stepOn hs.toStartUp h, hrest, hkept.trans hs.brLast⟩

/-- Until the first due BRSTEP a BRSTEP is due once TICK has reached the interval. -/
theorem exec_brstep_result_of_noDueYet (hs : NoDueYet c n ins s) (h : exec .brstep s = .next t) :
    t.result = 1 ↔ c.breathInterval ≤ s.tick := by
  rw [exec_brstep_result hs.running h, flag_eq_one_iff, hs.brLast, elapsedSince_zero hs.inv, hs.cfg]

/-! #### A gate's first firing -/

variable {g : BitVec 8}

/-- Slot g neither fired nor set since reset, nor in the steps to come. -/
structure NoFiringYet (c : Config) (n : Nat) (g : BitVec 8) (ins : List Input) (s : State) : Prop
    extends StartUp c n ins s where
  noFiring : stepsWhere (firingPoll g) ins s = 0
  noSet : cmdInput c (wordOf (.gateset g)) ∉ ins
  slot : readGate s g.toNat = 0

theorem noFiringYet_stepOn (hs : NoFiringYet c n g (inp :: ins) s) (h : stepOn inp s = .next t) :
    NoFiringYet c n g ins t := by
  obtain ⟨hinp, hrest⟩ := (stepsWhere_cons_eq_zero h ins).mp hs.noFiring
  obtain ⟨hset, hsets⟩ := not_or.mp (mt List.mem_cons.mpr hs.noSet)
  refine ⟨startUp_stepOn hs.toStartUp h, hrest, hsets, ?_⟩
  rcases stepOn_gateSlot hs.inv hs.running (startUp_head_agentStep hs.toStartUp) (hs.cfg.symm ▸ Ne.symm hset) h with
    hkept | ⟨hfire, _⟩
  · exact hkept.trans hs.slot
  · exact absurd (hinp.symm.trans hfire) nofun

/-- Until its first firing GATE g fires once TICK has reached the threshold. -/
theorem exec_gate_result_of_noFiringYet (hg : g.toNat < c.nGates) (hs : NoFiringYet c n g ins s)
    (h : exec (.gate g) s = .next t) : t.result = 1 ↔ s.arga.toNat ≤ s.tick := by
  rw [exec_gate_result hs.running (hs.cfg.symm ▸ hg) h, flag_eq_one_iff, hs.slot, elapsedSince_zero hs.inv]

/-- Every gate slot is 0 after reset (70_reset_and_hazards.md R240). -/
theorem readGate_resetOf (c : Config) (ok : Bool) (k : Nat) : readGate (State.resetOf c ok) k = 0 :=
  List.getElem?_getD_replicate_default_eq 0 c.nGates k

end StartUp

/-- Settles O50: TICK counts from 0, and BTN_LAST, BR_LAST and slot g keep their reset value 0 along the run. -/
theorem startUpWindows : Obligations.StartUpWindows := by
  intro c ins hc hins hlt
  have hs := startUp_resetOf hc hins hlt
  obtain ⟨t, ht, _⟩ := runOn_tick_add hs.running hs.inv.tick_lt hins
  have hend := runOn_next_keeps_rest hs startUp_stepOn ht
  refine ⟨t, ht, startUp_tick_end hend, fun hn => ?_, fun hnodue => ?_, fun g hg hnofire hnoset => ?_⟩
  · have hedge := runOn_next_keeps_rest (P := NoEdgeYet c _) ⟨hs, rfl, rfl⟩ (noEdgeYet_stepOn hn) ht
    exact ⟨hedge.pending, hedge.btnLast⟩
  · have hdue := runOn_next_keeps_rest (P := NoDueYet c _) ⟨hs, hnodue, rfl⟩ noDueYet_stepOn ht
    obtain ⟨u, hu⟩ := exec_next .brstep t
    exact ⟨u, hu, exec_brstep_result_of_noDueYet hdue hu⟩
  · have hfire := runOn_next_keeps_rest (P := NoFiringYet c _ g) ⟨hs, hnofire, hnoset, readGate_resetOf c true _⟩
      noFiringYet_stepOn ht
    obtain ⟨u, hu⟩ := exec_next (.gate g) t
    exact ⟨u, hu, exec_gate_result_of_noFiringYet hg hfire hu⟩

end Sys2Proof.Machine
